-- ==== Sys2Proof/Word.lean ====
section
/-! DEFINITION. The widths of the spec's values (00_scope.md R11): bytes, 16-bit addresses and
instruction words, 12-bit displacements and word targets; and a low/high pair of bytes. -/

namespace Sys2Proof

/-- A byte: 8 bits (R11). -/
abbrev Byte := BitVec 8

/-- An address or an instruction word: 16 bits (R11). -/
abbrev Word := BitVec 16

/-- A relative displacement or a word target: 12 bits (R11). -/
abbrev Disp := BitVec 12

/-- Two bytes of an instruction word, low byte first (R55): the shape of `TrampolineBytes` (R32). -/
structure BytePair where
  lo : Byte
  hi : Byte
deriving DecidableEq, Repr

end Sys2Proof
end

