-- ==== Sys2Proof/Config.lean ====
section
/-! DEFINITION. The configuration record of 00_scope.md R8, its constraints, its defaults, and the one
free value of the spec: the contents of the page buffer after a Reset (R29, decision D13). -/

namespace Sys2Proof

/-- The implementation parameters of R8, in the order of its table. `pageSize`, `flashSize`, `bootStart`,
`chunkN`, `readMax` and `exitCount` are sizes and counts, the rest are bytes, a nibble and switches. -/
structure Config where
  /-- bytes per flash page -/
  pageSize : Nat
  /-- bytes of program memory -/
  flashSize : Nat
  /-- byte address of the bootloader's own start -/
  bootStart : Nat
  /-- data bytes per WritePageChunk frame -/
  chunkN : Nat
  /-- value of an erased flash byte -/
  erased : Byte
  /-- upper nibble of a relative-jump word -/
  rjmpNibble : BitVec 4
  opcInit : Byte
  opcVersion : Byte
  opcDelete : Byte
  opcSetaddr : Byte
  opcWrite : Byte
  opcExit : Byte
  opcRead : Byte
  /-- the "unknown command" byte -/
  unknownByte : Byte
  /-- ReadPageChunk's "fixed error byte" -/
  readErrorByte : Byte
  /-- largest ReadPageChunk length -/
  readMax : Nat
  /-- ReadPageChunk is built in -/
  featureRead : Bool
  tag0 : Byte
  tag1 : Byte
  tag2 : Byte
  verMajor : Byte
  verMinor : Byte
  /-- Uninitialized ticks before the timeout handoff -/
  exitCount : Nat
  /-- the countdown still runs when exactly one init flag is set (conflict C3) -/
  partialInitTimeout : Bool
deriving DecidableEq, Repr

/-- The seven request opcodes. -/
def Config.opcodes (c : Config) : List Byte :=
  [c.opcInit, c.opcVersion, c.opcDelete, c.opcSetaddr, c.opcWrite, c.opcExit, c.opcRead]

/-- The constraints of R8. A configuration that breaks one is refused as a whole (R10). -/
abbrev Config.Valid (c : Config) : Prop :=
  c.pageSize ∈ [4, 8, 16, 32, 64, 128, 256] ∧
  (c.flashSize % c.pageSize = 0 ∧ c.flashSize ≤ 8192) ∧
  (c.bootStart % c.pageSize = 0 ∧ 2 * c.pageSize ≤ c.bootStart ∧ c.bootStart < c.flashSize) ∧
  (1 ≤ c.chunkN ∧ c.chunkN ≤ 8 ∧ c.pageSize % c.chunkN = 0) ∧
  (1 ≤ c.readMax ∧ c.readMax ≤ c.pageSize) ∧
  (1 ≤ c.exitCount ∧ c.exitCount ≤ 255) ∧
  c.opcodes.Nodup

/-- The default column of R8. `EXIT_COUNT` has no default there (OPEN): the value is the one of the
spec's vectors, 3. DESIGN CHOICE (log 2). -/
def Config.default : Config where
  pageSize := 64
  flashSize := 8192
  bootStart := 0x1A40
  chunkN := 8
  erased := 0xFF
  rjmpNibble := 0xC
  opcInit := 0x81
  opcVersion := 0x82
  opcDelete := 0x83
  opcSetaddr := 0x84
  opcWrite := 0x85
  opcExit := 0x86
  opcRead := 0x87
  unknownByte := 0xFF
  readErrorByte := 0xFF
  readMax := 8
  featureRead := true
  tag0 := 0x54
  tag1 := 0x4D
  tag2 := 0x4E
  verMajor := 1
  verMinor := 0
  exitCount := 3
  partialInitTimeout := true

/-- The byte the `n`-th draw gives. A Reset leaves the contents of the page buffer unspecified (R29,
decision D13): each byte it draws is one of these, and nothing says what it is. DESIGN CHOICE (log 4). -/
opaque Config.drawnByte : Nat → Byte

end Sys2Proof
end

