-- ==== Sys2Proof/Syntax.lean ====
section
/-! DEFINITION. The bus command set: one constructor per row of spec/opcode_table.json (00_scope.md R3). -/

namespace Sys2Proof

/-- A request, as 30_encoding.md R85 decodes it. -/
inductive Instr where
  /-- INITDEV, InitDevice (R113) -/
  | initdev
  /-- GETVER, GetVersion (R112) -/
  | getver
  /-- DELAPP, DeleteApplication (R115) -/
  | delapp
  /-- SETADDR, SetPageAddress: the address's high and low byte as received (R116) -/
  | setaddr (addrHi addrLo : Byte)
  /-- WRITE, WritePageChunk: the data bytes and the checksum (R117) -/
  | write (data : List Byte) (checksum : Byte)
  /-- EXIT, RequestExit (R114) -/
  | exit
  /-- READ, ReadPageChunk: start index and length (R119) -/
  | read (start length : Byte)
  /-- UNKNOWN: the whole unrecognized or malformed frame (R120) -/
  | unknown (frame : List Byte)
deriving DecidableEq, Repr

end Sys2Proof
end

