-- ==== Sys2Proof/WellFormed.lean ====
section
/-! DEFINITION. Which terms of `Instr` stand for a request frame of a given configuration
(30_encoding.md R83, R85, R87). -/

namespace Sys2Proof

/-- The fixed request length of an opcode (R83), none for a byte that is no enabled opcode (R87). -/
def requestLength (c : Config) (op : Byte) : Option Nat :=
  if op = c.opcVersion then some 1
  else if op = c.opcInit then some 1
  else if op = c.opcExit then some 1
  else if op = c.opcDelete then some 1
  else if op = c.opcSetaddr then some 3
  else if op = c.opcWrite then some (c.chunkN + 2)
  else if op = c.opcRead ∧ c.featureRead = true then some 3
  else none

/-- A frame whose opcode is enabled and whose length is that opcode's. -/
def knownFrame (c : Config) : List Byte → Bool
  | [] => false
  | op :: rest => requestLength c op == some (rest.length + 1)

/-- The instruction is the decoding of some frame: a WritePageChunk carries CHUNK_N data bytes, a
ReadPageChunk exists only with FEATURE_READ, and an Unknown carries no frame of R83. -/
def Instr.wf (c : Config) : Instr → Bool
  | .initdev => true
  | .getver => true
  | .delapp => true
  | .setaddr _ _ => true
  | .write d _ => d.length == c.chunkN
  | .exit => true
  | .read _ _ => c.featureRead
  | .unknown q => !knownFrame c q

end Sys2Proof
end

