-- ==== Sys2Proof/Decode.lean ====
section
/-! DEFINITION. The decoder of request frames (30_encoding.md R85) and the encoder (R83), and the words of
spec/opcode_table.json as frames. -/

namespace Sys2Proof

/-- R85: every byte list gives exactly one command, or Unknown with the whole frame. -/
def decode (c : Config) (q : List Byte) : Instr :=
  match q with
  | [] => .unknown []
  | op :: rest =>
    if op = c.opcVersion ∧ rest.length = 0 then .getver
    else if op = c.opcInit ∧ rest.length = 0 then .initdev
    else if op = c.opcExit ∧ rest.length = 0 then .exit
    else if op = c.opcDelete ∧ rest.length = 0 then .delapp
    else if op = c.opcSetaddr ∧ rest.length = 2 then .setaddr (rest.getD 0 0) (rest.getD 1 0)
    else if op = c.opcWrite ∧ rest.length = c.chunkN + 1 then
      .write (rest.take c.chunkN) (rest.getD c.chunkN 0)
    else if op = c.opcRead ∧ c.featureRead = true ∧ rest.length = 2 then
      .read (rest.getD 0 0) (rest.getD 1 0)
    else .unknown q

/-- R83: the request frame of an instruction. -/
def encode (c : Config) : Instr → List Byte
  | .initdev => [c.opcInit]
  | .getver => [c.opcVersion]
  | .delapp => [c.opcDelete]
  | .setaddr hi lo => [c.opcSetaddr, hi, lo]
  | .write d k => c.opcWrite :: (d ++ [k])
  | .exit => [c.opcExit]
  | .read start length => [c.opcRead, start, length]
  | .unknown q => q

/-- The low `n` bytes of a number, least significant first: byte 0 of the frame is the first word of the
opcode table, which numbers its bits from there. -/
def bytesOf : Nat → Nat → List Byte
  | 0, _ => []
  | n + 1, w => BitVec.ofNat 8 w :: bytesOf n (w / 256)

/-- The frame of a table word of `nbits` bits. The table numbers only the opcode byte, so the operand bytes
that R83 gives the opcode follow as zeros. A byte that is no opcode stands alone. -/
def tableFrame (c : Config) (nbits w : Nat) : List Byte :=
  match bytesOf ((nbits + 7) / 8) w with
  | [] => []
  | op :: rest =>
    op :: (rest ++ List.replicate ((requestLength c op).getD 0 - (rest.length + 1)) 0)

/-- The instruction the decoder reads from a table word, under the default opcodes the table is written
with (R86). -/
def decodeTableWord (nbits w : Nat) : Option Instr :=
  some (decode Config.default (tableFrame Config.default nbits w))

end Sys2Proof
end

