-- ==== Sys2Proof/Machine/Bits.lean ====
section
/-! DEFINITION. The byte, word and list functions of 00_scope.md R11-R12, the derived constants of R9 and
the page base of 20_memory.md R53. -/

namespace Sys2Proof.Machine

/-- `hi8(a) = a[15:8]` (R11). -/
def hi8 (a : Word) : Byte := a.extractLsb' 8 8

/-- `lo8(a) = a[7:0]` (R11). -/
def lo8 (a : Word) : Byte := a.extractLsb' 0 8

/-- `(hi << 8) | lo`: the word of a low and a high byte (R54, R55). -/
def joinWord (lo hi : Byte) : Word := hi ++ lo

/-- The two bytes of a word, low byte first (R55). -/
def wordBytes (w : Word) : BytePair := ⟨lo8 w, hi8 w⟩

/-- `sum8(xs)`: the sum of the bytes mod 2^8; the empty list sums to 0 (R12). -/
def sum8 : List Byte → Byte
  | [] => 0
  | b :: bs => b + sum8 bs

/-- `ack(op) = (~op) & 0xFF` (R82). -/
def ackOf (op : Byte) : Byte := ~~~op

/-- `pageBase(a) = a & ~(PAGE_SIZE - 1)`, in 16 bits (R53). -/
def pageBase (c : Config) (a : Word) : Word := a &&& ~~~(BitVec.ofNat 16 c.pageSize - 1)

end Sys2Proof.Machine

namespace Sys2Proof

/-- `TPL_PAGE = BOOT_START - PAGE_SIZE`, the trampoline page (R9). -/
def Config.tplPage (c : Config) : Nat := c.bootStart - c.pageSize

/-- `TPL_ENTRY = BOOT_START - 2`, the byte address of the trampoline word (R9). -/
def Config.tplEntry (c : Config) : Word := BitVec.ofNat 16 (c.bootStart - 2)

/-- `S = BOOT_START >> 1`, the word address of the bootloader start (R9). -/
def Config.wordS (c : Config) : Disp := BitVec.ofNat 12 (c.bootStart / 2)

/-- BOOT_START as the 16-bit address GetVersion sends (R84). -/
def Config.bootWord (c : Config) : Word := BitVec.ofNat 16 c.bootStart

end Sys2Proof
end

