-- ==== Sys2Proof/Machine/Trampoline.lean ====
section
/-! DEFINITION. The relative-jump word (30_encoding.md R88, R89), the Trampoline Calculator and the boot
vector (42_trampoline.md R180, R182). -/

namespace Sys2Proof.Machine

/-- R88: RJMP_NIBBLE in bits 15:12, the displacement `k` in bits 11:0. -/
def rjmpWord (c : Config) (k : Disp) : Word := c.rjmpNibble ++ k

/-- The displacement field, `w[11:0]` (R88). -/
def dispOf (w : Word) : Disp := w.extractLsb' 0 12

/-- The opcode field, `w[15:12]` (R88). -/
def nibbleOf (w : Word) : BitVec 4 := w.extractLsb' 12 4

/-- R89: where a relative jump with field `k` at word address `W` goes, mod 2^12. -/
def target (W k : Disp) : Disp := W + k + 1

/-- R180: the application's original vector, re-encoded for the word below the bootloader. It reads
`v[11:0]` alone (R183). -/
def trampoline (c : Config) (lo hi : Byte) : BytePair :=
  let v := joinWord lo hi
  let t : Disp := dispOf v + 1
  let d : Disp := ~~~(c.wordS - t) + 1
  wordBytes (rjmpWord c d)

/-- R182: the relative jump at word 0 to the bootloader start. -/
def bootVector (c : Config) : BytePair := wordBytes (rjmpWord c (c.wordS - 1))

end Sys2Proof.Machine
end

