-- ==== Sys2Proof/Machine/Memory.lean ====
section
/-! DEFINITION. Program memory (20_memory.md R50) as a list of cells in one canonical form: addresses strictly
rising. An unlisted address holds no value the spec gives (log 5): the block never reads Flash (R65). -/

namespace Sys2Proof.Machine

/-- Program memory: the bytes that are known, by address. -/
abbrev Memory := List Host.Cell

/-- The canonical form: addresses strictly rising. No cell equals what an unlisted address reads as, since
that is no value at all. -/
abbrev Memory.wf (m : Memory) : Prop := m.Pairwise (fun x y => x.1 < y.1)

/-- `Flash[a]`, none where nothing has written it. -/
def Memory.read : Memory → Nat → Option Byte
  | [], _ => none
  | (x, b) :: m, a => if x = a then some b else Memory.read m a

/-- `MemRead(a, n)` (R13), which states end states and which no command performs. -/
def Memory.readRange (m : Memory) : Nat → Nat → List (Option Byte)
  | _, 0 => []
  | a, n + 1 => Memory.read m a :: Memory.readRange m (a + 1) n

/-- The cells of a run of bytes from address `a`. -/
def cellsAt : Nat → List Byte → Memory
  | _, [] => []
  | a, b :: bs => (a, b) :: cellsAt (a + 1) bs

/-- `Flash[a + j] <- bs[j]` for every j: the run replaces what stood in its range. -/
def Memory.writeRange (m : Memory) (a : Nat) (bs : List Byte) : Memory :=
  m.filter (fun c => decide (c.1 < a)) ++ cellsAt a bs ++
    m.filter (fun c => decide (a + bs.length ≤ c.1))

/-- The word of program memory at word address `W`, low byte at the even address (R55). -/
def Memory.wordAt (m : Memory) (W : Disp) : Option Word :=
  match Memory.read m (2 * W.toNat), Memory.read m (2 * W.toNat + 1) with
  | some lo, some hi => some (joinWord lo hi)
  | _, _ => none

/-- Where the CPU goes from word `W` when the word there is a relative jump (R89). None where Flash holds no
known word there, or another instruction, whose meaning is the CPU's and outside the block (R3). -/
def Memory.jumpFrom (c : Config) (m : Memory) (W : Disp) : Option Disp :=
  match Memory.wordAt m W with
  | some w => if nibbleOf w = c.rjmpNibble then some (target W (dispOf w)) else none
  | none => none

/-- R51: the three regions of program memory. -/
inductive Region where
  /-- (a), `[0, TPL_PAGE)` -/
  | application
  /-- (b), `[TPL_PAGE, BOOT_START)` -/
  | trampolinePage
  /-- (c), `[BOOT_START, FLASH_SIZE)` -/
  | bootloader
deriving DecidableEq, Repr

/-- R51: the region of a byte address, none at or above FLASH_SIZE. It is a property of the address: nothing
in Flash stores it (R41). -/
def regionOf (c : Config) (a : Nat) : Option Region :=
  if a < c.tplPage then some .application
  else if a < c.bootStart then some .trampolinePage
  else if a < c.flashSize then some .bootloader
  else none

end Sys2Proof.Machine
end

