-- ==== Sys2Proof/Machine/State.lean ====
section
/-! DEFINITION. The state of the block and of its environment (10_state.md R20, 20_memory.md R50-R60), the
reasons a step stops, and the state after reset (R40). -/

namespace Sys2Proof.Machine

/-- Why the machine stops. -/
inductive Fault where
  /-- The memory controller never clears busy, so a WaitNotBusy holds forever in the middle of a commit or
  an erase (R60, R270). Raised by `waitNotBusy`. Safe: the machine stops where the hardware hangs. -/
  | controllerHang
deriving DecidableEq, Repr

/-- Why there is no meaning. -/
inductive Refusal where
  /-- The instruction has no meaning yet; raised by `exec` alone. Safe: nothing follows from it. -/
  | notModelled (mnemonic : String)
  /-- The configuration breaks a constraint of R8, and R10 refuses it as a whole; raised by `step`.
  Safe: the model has no run of it. -/
  | invalidConfig
deriving DecidableEq, Repr

/-- The reasons the block's own sticky `fault` element records (R38, R236). -/
inductive FaultReason where
  /-- F1: a WritePageChunk past the end of the page (R121) -/
  | pageOverflow
deriving DecidableEq, Repr

/-- The Status Register's five flags (R21), which allows a record of booleans: no interface shows the
byte. -/
structure StatusRegister where
  initStep1 : Bool
  initStep2 : Bool
  deleteFlashRequested : Bool
  applicationReady : Bool
  exitRequested : Bool
deriving DecidableEq, Repr

/-- The Status Register as the byte of R21; the reserved bits 7:5 read 0 (R27). -/
def StatusRegister.toByte (r : StatusRegister) : Byte :=
  (BitVec.ofBool r.initStep1).setWidth 8 |||
  (BitVec.ofBool r.initStep2).setWidth 8 <<< 1 |||
  (BitVec.ofBool r.deleteFlashRequested).setWidth 8 <<< 2 |||
  (BitVec.ofBool r.applicationReady).setWidth 8 <<< 3 |||
  (BitVec.ofBool r.exitRequested).setWidth 8 <<< 4

/-- "`ApplicationReady` set and all others clear" (R21, R40). -/
def StatusRegister.reset : StatusRegister := ⟨false, false, false, true, false⟩

/-- The input events of the block (R7), each one atomic step (R14). -/
inductive Event where
  /-- the transport delivered one complete request frame -/
  | receive (frame : List Byte)
  /-- the bus master asks for reply bytes -/
  | request
  /-- the fixed-period timer tick -/
  | tick
  /-- a full device reset -/
  | reset
deriving DecidableEq, Repr

/-- What the block gives its environment (R7). The indicator output is the register of that name. -/
inductive Output where
  /-- a reply byte handed to the transport -/
  | transmit (b : Byte)
  /-- "erase page at address" -/
  | nvmErase (a : Nat)
  /-- "stage word into page buffer" -/
  | nvmFill (i : Nat) (w : Word)
  /-- "commit page buffer to address" -/
  | nvmWrite (a : Nat)
  /-- control goes to the application: the CPU's `pc <- t` (R13) -/
  | handoff (t : Word)
deriving DecidableEq, Repr

/-- The memory controller with the program memory behind it (20_memory.md, section 3): environment state. -/
structure Nvm where
  /-- program memory -/
  flash : Memory
  /-- the controller's own staging buffer, PAGE_SIZE/2 words -/
  stage : List Word
  /-- the level the "busy" query gives (R59) -/
  busy : Bool
  /-- the controller never clears busy (R270). The model's own field: weak fairness is that it is false
  (log 7). -/
  neverReady : Bool
deriving DecidableEq, Repr

/-- The state: the build's configuration (log 1), the block's elements in the order of R20, then the
environment it acts on. -/
structure State where
  /-- R8, fixed for the machine: no step changes it -/
  cfg : Config
  /-- R21 -/
  sr : StatusRegister
  /-- the Page Buffer, PAGE_SIZE bytes (R29) -/
  pb : List Byte
  /-- the fill index, 0 … PAGE_SIZE (R30) -/
  pageIndex : Nat
  /-- R31 -/
  flashPageAddress : Word
  /-- R32 -/
  trampolineBytes : BytePair
  /-- R33 -/
  terminal : Bool
  /-- R34 -/
  exitCountdown : Byte
  /-- R35 -/
  indicator : Bool
  /-- the pending reply (R36) -/
  reply : List Byte
  /-- R37 -/
  handoffTarget : Option Word
  /-- R38 -/
  fault : Option FaultReason
  /-- the memory controller and Flash (R41, R50, R59) -/
  nvm : Nvm
  /-- the events that wait in the environment, first to come first (R211); the model's own field (log 6) -/
  events : List Event
  /-- the outputs given so far, oldest first (R7); the model's own field (log 8) -/
  outputs : List Output
  /-- how many bytes Resets have drawn (R29); the model's own field (log 4) -/
  draws : Nat
deriving DecidableEq, Repr

/-! ### The updates of one field -/

def State.setSr (s : State) (v : StatusRegister) : State := { s with sr := v }
def State.setPb (s : State) (v : List Byte) : State := { s with pb := v }
def State.setPageIndex (s : State) (v : Nat) : State := { s with pageIndex := v }
def State.setFlashPageAddress (s : State) (v : Word) : State := { s with flashPageAddress := v }
def State.setTrampolineBytes (s : State) (v : BytePair) : State := { s with trampolineBytes := v }
def State.setTerminal (s : State) (v : Bool) : State := { s with terminal := v }
def State.setExitCountdown (s : State) (v : Byte) : State := { s with exitCountdown := v }
def State.setIndicator (s : State) (v : Bool) : State := { s with indicator := v }
def State.setReply (s : State) (v : List Byte) : State := { s with reply := v }
def State.setHandoffTarget (s : State) (v : Option Word) : State := { s with handoffTarget := v }
def State.setFault (s : State) (v : Option FaultReason) : State := { s with fault := v }
def State.setNvm (s : State) (v : Nvm) : State := { s with nvm := v }
def State.setEvents (s : State) (v : List Event) : State := { s with events := v }
def State.setOutputs (s : State) (v : List Output) : State := { s with outputs := v }
def State.setDraws (s : State) (v : Nat) : State := { s with draws := v }

/-! ### Reset -/

/-- The values of R40, with the page buffer as given: the configuration's own reset values. -/
def State.afterReset (c : Config) (pb : List Byte) (nvm : Nvm) : State where
  cfg := c
  sr := StatusRegister.reset
  pb := pb
  pageIndex := 0
  flashPageAddress := 0
  trampolineBytes := trampoline c c.erased c.erased
  terminal := false
  exitCountdown := BitVec.ofNat 8 c.exitCount
  indicator := false
  reply := []
  handoffTarget := none
  fault := none
  nvm := nvm
  events := []
  outputs := []
  draws := 0

/-- The machine right after reset, under the default configuration, with no event waiting. The page buffer's
zeros (log 3), the empty Flash (log 5) and the staging buffer's zeros (log 9) are the model's. -/
def State.reset : State :=
  State.afterReset Config.default (List.replicate Config.default.pageSize 0)
    { flash := [], stage := List.replicate (Config.default.pageSize / 2) 0, busy := false, neverReady := false }

end Sys2Proof.Machine
end

