-- ==== Sys2Proof/Machine/Flags.lean ====
section
/-! DEFINITION. Every write of a Status Register flag (10_state.md R22-R26), and the Supervisor state that the
flags and `terminal` give (R33). -/

namespace Sys2Proof.Machine

/-- R22: `InitStep1 <- 1`. -/
def setInitStep1 (s : State) : State := s.setSr { s.sr with initStep1 := true }

/-- R23: `InitStep2 <- 1`. -/
def setInitStep2 (s : State) : State := s.setSr { s.sr with initStep2 := true }

/-- R24: `DeleteFlashRequested <- 1`. -/
def setDeleteFlashRequested (s : State) : State := s.setSr { s.sr with deleteFlashRequested := true }

/-- R26: `ExitRequested <- 1`. -/
def setExitRequested (s : State) : State := s.setSr { s.sr with exitRequested := true }

/-- R118: the checksum-mismatch effect, `ApplicationReady <- 0` and `DeleteFlashRequested <- 1`. -/
def checksumMismatch (s : State) : State :=
  s.setSr { s.sr with applicationReady := false, deleteFlashRequested := true }

/-- The Supervisor's states (R200). -/
inductive Sup where
  | uninitialized
  | idle
  | terminal
deriving DecidableEq, Repr

/-- R33: the Supervisor state is derived, not stored. -/
def State.sup (s : State) : Sup :=
  if s.terminal then .terminal
  else if s.sr.initStep1 && s.sr.initStep2 then .idle
  else .uninitialized

/-- No Receive, Request or Tick has an effect: the block is Terminal or faulted (R110, R111, R200). -/
def State.halted (s : State) : Bool := s.fault.isSome || s.terminal

end Sys2Proof.Machine
end

