-- ==== Sys2Proof/Machine/Operands.lean ====
section
/-! DEFINITION. What the operands of SetPageAddress, WritePageChunk and ReadPageChunk denote
(40_dispatcher.md R116, R117, R119). -/

namespace Sys2Proof.Machine

/-- R116: the received address, big-endian. -/
def receivedAddress (addrHi addrLo : Byte) : Word := joinWord addrLo addrHi

/-- R117's loop: each byte goes to `PB[pageIndex]`, the index advances, the sum runs from `acc`. Answers the
state and the sum. -/
def appendChunk : List Byte → Byte → State → State × Byte
  | [], acc, s => (s, acc)
  | b :: bs, acc, s =>
    appendChunk bs (acc + b) ((s.setPb (s.pb.set s.pageIndex b)).setPageIndex (s.pageIndex + 1))

/-- R119: a valid range, in integers with no wrap. -/
def readRangeValid (c : Config) (start length : Byte) : Bool :=
  !(decide (length = 0) || decide (c.readMax < length.toNat) ||
    decide (c.pageSize < start.toNat + length.toNat))

/-- `[PB[start], …, PB[start + length - 1]]` (R119). -/
def pbSlice (s : State) (start length : Byte) : List Byte :=
  (s.pb.drop start.toNat).take length.toNat

end Sys2Proof.Machine
end

