-- ==== Sys2Proof/Machine/Ops.lean ====
section
/-! DEFINITION. The shared operations: sequencing, outputs, the model's fault (60_exceptions.md R236), the
handoff (43_supervisor.md R209) and the memory controller's primitives (20_memory.md R56-R61). The block has
no trap and so no exception entry or return (R230, R241); the fault and the handoff are what comes nearest. -/

namespace Sys2Proof.Machine

/-- Do `f` after `o`, if `o` answers a next state. -/
def andThen (o : Host.Outcome State Fault Refusal) (f : State → Host.Outcome State Fault Refusal) :
    Host.Outcome State Fault Refusal :=
  match o with
  | .next s => f s
  | .fault r => .fault r
  | .refused r => .refused r

/-- Give the environment outputs, in order (R7). -/
def emit (os : List Output) (s : State) : State := s.setOutputs (s.outputs ++ os)

/-- `reply <- xs` (R13). -/
def replyWith (xs : List Byte) (s : State) : State := s.setReply xs

/-- R236, `raise Fault(r)`: an existing reason is kept. -/
def raiseFault (r : FaultReason) (s : State) : State :=
  match s.fault with
  | none => s.setFault (some r)
  | some _ => s

/-- R209, `Handoff(t)`: the block becomes Terminal and the CPU's pc is `t`. -/
def handoff (t : Word) (s : State) : State :=
  emit [.handoff t] ((s.setHandoffTarget (some t)).setTerminal true)

/-! ### The memory controller -/

/-- R60: hold until busy is false. A controller that never clears busy holds forever (R270). -/
def waitNotBusy (s : State) : Host.Outcome State Fault Refusal :=
  if s.nvm.busy then
    if s.nvm.neverReady then .fault .controllerHang else .next (s.setNvm { s.nvm with busy := false })
  else .next s

/-- R56, "erase page at address". -/
def nvmErase (a : Nat) (s : State) : State :=
  emit [.nvmErase a] (s.setNvm { s.nvm with
    flash := Memory.writeRange s.nvm.flash a (List.replicate s.cfg.pageSize s.cfg.erased)
    busy := true })

/-- R57, "stage word into page buffer": Flash and busy are not changed. -/
def nvmFill (i : Nat) (w : Word) (s : State) : State :=
  emit [.nvmFill i w] (s.setNvm { s.nvm with stage := s.nvm.stage.set i w })

/-- The staging buffer's bytes, low byte of each word first (R58). -/
def stageBytes : List Word → List Byte
  | [] => []
  | w :: ws => lo8 w :: hi8 w :: stageBytes ws

/-- R58, "commit page buffer to address". -/
def nvmWrite (a : Nat) (s : State) : State :=
  emit [.nvmWrite a] (s.setNvm { s.nvm with
    flash := Memory.writeRange s.nvm.flash a (stageBytes s.nvm.stage)
    busy := true })

/-- R61's loop: stage the image's words from index `i` on, low byte first. -/
def fillFrom : Nat → List Byte → State → State
  | i, lo :: hi :: rest, s => fillFrom (i + 1) rest (nvmFill i (joinWord lo hi) s)
  | _, _, s => s

/-- R61, `ProgramPage(a, img)`: erase, then program. -/
def programPage (a : Nat) (img : List Byte) (s : State) : Host.Outcome State Fault Refusal :=
  andThen (waitNotBusy s) fun s =>
  andThen (waitNotBusy (nvmErase a s)) fun s =>
  waitNotBusy (nvmWrite a (fillFrom 0 img s))

end Sys2Proof.Machine
end

