-- ==== Sys2Proof/Machine/Handshake.lean ====
section
/-! DEFINITION. The commands without operands, and Unknown (40_dispatcher.md R112-R115, R120). -/

namespace Sys2Proof.Machine

/-- R113, InitDevice. -/
def execInitdev (s : State) : Host.Outcome State Fault Refusal :=
  .next (replyWith [ackOf s.cfg.opcInit] (setInitStep1 s))

/-- R112, GetVersion: the base address goes out high byte first (R54). -/
def execGetver (s : State) : Host.Outcome State Fault Refusal :=
  .next (replyWith
    [ackOf s.cfg.opcVersion, s.cfg.tag0, s.cfg.tag1, s.cfg.tag2, s.cfg.verMajor, s.cfg.verMinor,
      hi8 s.cfg.bootWord, lo8 s.cfg.bootWord]
    (setInitStep2 s))

/-- R115, DeleteApplication. -/
def execDelapp (s : State) : Host.Outcome State Fault Refusal :=
  .next (replyWith [ackOf s.cfg.opcDelete] (setDeleteFlashRequested s))

/-- R114, RequestExit. -/
def execExit (s : State) : Host.Outcome State Fault Refusal :=
  .next (replyWith [ackOf s.cfg.opcExit] (setExitRequested s))

/-- R120, Unknown: one unknown byte per byte received. -/
def execUnknown (frame : List Byte) (s : State) : Host.Outcome State Fault Refusal :=
  .next (replyWith (List.replicate frame.length s.cfg.unknownByte) s)

end Sys2Proof.Machine
end

