-- ==== Sys2Proof/Machine/PageCommands.lean ====
section
/-! DEFINITION. The commands over the page address and the page buffer (40_dispatcher.md R116-R119, R121). -/

namespace Sys2Proof.Machine

/-- R116, SetPageAddress: stored aligned down, not range-checked; the reply's sum is over the bytes as
received. -/
def execSetaddr (addrHi addrLo : Byte) (s : State) : Host.Outcome State Fault Refusal :=
  .next (replyWith [ackOf s.cfg.opcSetaddr, addrHi + addrLo]
    (s.setFlashPageAddress (pageBase s.cfg (receivedAddress addrHi addrLo))))

/-- R117, WritePageChunk: past the end of the page the block faults with no other effect (R121); else the
bytes are stored whether or not the checksum matches, a mismatch marks the application invalid (R118), and
the reply carries the computed sum. -/
def execWrite (data : List Byte) (checksum : Byte) (s : State) : Host.Outcome State Fault Refusal :=
  if s.cfg.pageSize < s.pageIndex + s.cfg.chunkN then .next (raiseFault .pageOverflow s)
  else
    let (t, sum) := appendChunk data 0 s
    .next (replyWith [ackOf s.cfg.opcWrite, sum] (if sum = checksum then t else checksumMismatch t))

/-- R119, ReadPageChunk: the range check comes before any read (R239). -/
def execRead (start length : Byte) (s : State) : Host.Outcome State Fault Refusal :=
  if readRangeValid s.cfg start length then
    let xs := pbSlice s start length
    .next (replyWith (ackOf s.cfg.opcRead :: (xs ++ [sum8 xs])) s)
  else .next (replyWith [s.cfg.readErrorByte] s)

end Sys2Proof.Machine
end

