-- ==== Sys2Proof/Machine/Dispatch.lean ====
section
/-! DEFINITION. The Command Dispatcher: one arm per command (40_dispatcher.md R110). -/

namespace Sys2Proof.Machine

def exec (i : Instr) (s : State) : Host.Outcome State Fault Refusal :=
  match i with
  | .initdev => Sys2Proof.Machine.execInitdev s
  | .getver => Sys2Proof.Machine.execGetver s
  | .delapp => Sys2Proof.Machine.execDelapp s
  | .setaddr addrHi addrLo => Sys2Proof.Machine.execSetaddr addrHi addrLo s
  | .write data checksum => Sys2Proof.Machine.execWrite data checksum s
  | .exit => Sys2Proof.Machine.execExit s
  | .read start length => Sys2Proof.Machine.execRead start length s
  | .unknown frame => Sys2Proof.Machine.execUnknown frame s

end Sys2Proof.Machine
end

