-- ==== Sys2Proof/Machine/FlashWriter.lean ====
section
/-! DEFINITION. The Flash Writer: commitPage and eraseAll (41_flash_writer.md R150-R158). -/

namespace Sys2Proof.Machine

/-- R151, Fix-Reset-Vector: on page 0 the trampoline is computed from the bytes before they are
overwritten. -/
def fixResetVector (a : Word) (s : State) : State :=
  if a = 0 then
    (s.setTrampolineBytes (trampoline s.cfg (s.pb.getD 0 0) (s.pb.getD 1 0))).setPb
      ((s.pb.set 0 (bootVector s.cfg).lo).set 1 (bootVector s.cfg).hi)
  else s

/-- A page image with the trampoline word in its last two bytes (R152, R155). -/
def withTrampolineWord (s : State) (img : List Byte) : List Byte :=
  (img.set (s.cfg.pageSize - 2) s.trampolineBytes.lo).set (s.cfg.pageSize - 1) s.trampolineBytes.hi

/-- R152: on the trampoline page the buffer's last two bytes become the trampoline word. -/
def placeTrampolineWord (a : Word) (s : State) : State :=
  if a.toNat = s.cfg.tplPage then s.setPb (withTrampolineWord s s.pb) else s

/-- R153: the target lies in the bootloader's own region. -/
def protectedAddress (c : Config) (a : Word) : Bool := decide (c.bootStart ≤ a.toNat)

/-- R155: a page 0 commit also creates the trampoline page, from a scratch image. -/
def createTrampolinePage (a : Word) (s : State) : Host.Outcome State Fault Refusal :=
  if a = 0 then
    programPage s.cfg.tplPage (withTrampolineWord s (List.replicate s.cfg.pageSize s.cfg.erased)) s
  else .next s

/-- R150: the five steps in order. A discarded commit (R153) still succeeds. -/
def commitPage (pa : Word) (s : State) : Host.Outcome State Fault Refusal :=
  let a := pageBase s.cfg pa
  let s := placeTrampolineWord a (fixResetVector a s)
  if protectedAddress s.cfg a then .next s
  else andThen (programPage a.toNat s.pb s) (createTrampolinePage a)

/-- R158's loop: erase `n` pages from address `a` on. -/
def erasePages : Nat → Nat → State → Host.Outcome State Fault Refusal
  | 0, _, s => .next s
  | n + 1, a, s =>
    andThen (waitNotBusy s) fun s =>
    andThen (waitNotBusy (nvmErase a s)) fun s =>
    erasePages n (a + s.cfg.pageSize) s

/-- R158: fill the buffer with the erased value, commit it to page 0, then erase the application pages
from page 1 up to, not including, the trampoline page (conflict C2). -/
def eraseAll (s : State) : Host.Outcome State Fault Refusal :=
  andThen (commitPage 0 (s.setPb (List.replicate s.cfg.pageSize s.cfg.erased))) fun s =>
  erasePages (s.cfg.tplPage / s.cfg.pageSize - 1) s.cfg.pageSize s

end Sys2Proof.Machine
end

