-- ==== Sys2Proof/Machine/Supervisor.lean ====
section
/-! DEFINITION. The Supervisor's Tick (43_supervisor.md R201-R208). -/

namespace Sys2Proof.Machine

/-- R203: the countdown runs. -/
def countdownRuns (s : State) : Bool :=
  s.cfg.partialInitTimeout || (!s.sr.initStep1 && !s.sr.initStep2)

/-- R201: the blink, then the countdown, then the timeout handoff (R202). -/
def tickUninitialized (s : State) : State :=
  let s := s.setIndicator (!s.indicator)
  if countdownRuns s then
    let s := s.setExitCountdown (s.exitCountdown - 1)
    if s.exitCountdown = 0 then handoff s.cfg.tplEntry s else s
  else s

/-- R206, R207: erase flash, then hand off. -/
def eraseAndHandoff (s : State) : Host.Outcome State Fault Refusal :=
  andThen (eraseAll s) fun s => .next (handoff s.cfg.tplEntry s)

/-- R208: commit the full page; the address advances mod 2^16 and the index clears even when the commit
was discarded. -/
def pageFullCommit (s : State) : Host.Outcome State Fault Refusal :=
  andThen (commitPage s.flashPageAddress s) fun s =>
  .next ((s.setFlashPageAddress (s.flashPageAddress + BitVec.ofNat 16 s.cfg.pageSize)).setPageIndex 0)

/-- R204: first match in the order listed. -/
def tickIdle (s : State) : Host.Outcome State Fault Refusal :=
  if s.sr.exitRequested && s.sr.applicationReady then .next (handoff s.cfg.tplEntry s)
  else if s.sr.exitRequested then eraseAndHandoff s
  else if s.sr.deleteFlashRequested then eraseAndHandoff s
  else if s.pageIndex = s.cfg.pageSize then pageFullCommit s
  else .next s

end Sys2Proof.Machine
end

