-- ==== Sys2Proof/Machine/Events.lean ====
section
/-! DEFINITION. What each event does (00_scope.md R7, 43_supervisor.md R200): Receive and Request
(40_dispatcher.md R110, R111), Tick (R201, R204) and Reset (70_reset_and_hazards.md R260). -/

namespace Sys2Proof.Machine

/-- R110. -/
def onReceive (frame : List Byte) (s : State) : Host.Outcome State Fault Refusal :=
  if s.halted then .next s else exec (decode s.cfg frame) s

/-- R111: the reply goes out in order, then it is empty. -/
def onRequest (s : State) : Host.Outcome State Fault Refusal :=
  if s.halted then .next s
  else .next ((emit (s.reply.map .transmit) s).setReply [])

/-- R200's Tick column. -/
def onTick (s : State) : Host.Outcome State Fault Refusal :=
  if s.halted then .next s
  else match s.sup with
  | .uninitialized => .next (tickUninitialized s)
  | .idle => tickIdle s
  | .terminal => .next s

/-- The bytes a Reset draws for the page buffer (R29): free values. -/
def drawPage (s : State) : List Byte :=
  (List.range s.cfg.pageSize).map fun i => Config.drawnByte (s.draws + i)

/-- R260: every block element takes its value of R40, in every Supervisor state. Flash and the staging
buffer are kept (R41); busy is false (R59). A fault belongs to the run that ends (R236, log 11). -/
def onReset (s : State) : Host.Outcome State Fault Refusal :=
  .next ((((State.afterReset s.cfg (drawPage s) { s.nvm with busy := false }).setEvents
    s.events).setOutputs s.outputs).setDraws (s.draws + s.cfg.pageSize))

/-- One event, one atomic step (R14). -/
def perform (e : Event) (s : State) : Host.Outcome State Fault Refusal :=
  match e with
  | .receive frame => onReceive frame s
  | .request => onRequest s
  | .tick => onTick s
  | .reset => onReset s

end Sys2Proof.Machine
end

