-- ==== Sys2Proof/Machine/Step.lean ====
section
/-! DEFINITION. One step: the next event of the environment (00_scope.md R7, R14). -/

namespace Sys2Proof.Machine

/-- The first waiting event is taken from the environment and performed. With none waiting nothing happens,
since every step of the block is caused by an event (R7). A configuration outside R8 is refused (R10). -/
def step (s : State) : Host.Outcome State Fault Refusal :=
  if s.cfg.Valid then
    match s.events with
    | [] => .next s
    | e :: es => perform e (s.setEvents es)
  else .refused .invalidConfig

/-- `s` with the frame of a table word as the event that the next step performs, in a block that takes
frames, that is, neither Terminal nor faulted. -/
def State.withFetchWord (s : State) (nbits w : Nat) : State :=
  ((s.setEvents (.receive (tableFrame s.cfg nbits w) :: s.events)).setTerminal false).setFault none

end Sys2Proof.Machine
end

