-- ==== Sys2Proof/Machine/Script.lean ====
section
/-! DEFINITION. The host-script lines and their macros as event lists (30_encoding.md R92, R93). -/

namespace Sys2Proof.Machine

/-- A line that sends a command: its frame, delivered whole (R92). -/
def Script.command (c : Config) (i : Instr) : Event := .receive (encode c i)

/-- `SETADDR a16` (R92): the high byte goes first. -/
def Script.setaddr (c : Config) (a : Word) : Event := Script.command c (.setaddr (hi8 a) (lo8 a))

/-- `WRITE d0, …, dN-1` with the checksum left to its default, `sum8(d)` (R92). -/
def Script.write (c : Config) (d : List Byte) : Event := Script.command c (.write d (sum8 d))

/-- `HANDSHAKE` (R93). -/
def Script.handshake (c : Config) : List Event :=
  [Script.command c .initdev, .request, Script.command c .getver, .request]

/-- The WRITE and REQ lines of `n` chunks of an image (R93). -/
def Script.chunks (c : Config) : Nat → List Byte → List Event
  | 0, _ => []
  | n + 1, img => Script.write c (img.take c.chunkN) :: .request :: Script.chunks c n (img.drop c.chunkN)

/-- `UPLOAD a16, img` (R93). -/
def Script.upload (c : Config) (a : Word) (img : List Byte) : List Event :=
  Script.setaddr c a :: .request :: (Script.chunks c (c.pageSize / c.chunkN) img ++ [.tick])

end Sys2Proof.Machine
end

