-- ==== Sys2Proof/Machine/Conditions.lean ====
section
/-! DEFINITION. The condition codes of 60_exceptions.md R231: names for what an event ran into. No register
stores one and no frame carries one, so they are functions of the state before the event. -/

namespace Sys2Proof.Machine

/-- R231's table. -/
inductive Condition where
  /-- X1 (R232) -/
  | unknownCommand
  /-- X2 (R233) -/
  | checksumMismatch
  /-- X3 (R234) -/
  | protectedWriteDiscarded
  /-- X4 (R235) -/
  | handshakeTimeout
  /-- X5 (R237) -/
  | readRangeError
  /-- F1 (R121) -/
  | pageOverflow
deriving DecidableEq, Repr

/-- The condition a command raises, at most one, in the order of R239. -/
def commandCondition (i : Instr) (s : State) : Option Condition :=
  match i with
  | .initdev => none
  | .getver => none
  | .delapp => none
  | .setaddr _ _ => none
  | .write data checksum =>
    if s.cfg.pageSize < s.pageIndex + s.cfg.chunkN then some .pageOverflow
    else if sum8 data = checksum then none else some .checksumMismatch
  | .exit => none
  | .read start length => if readRangeValid s.cfg start length then none else some .readRangeError
  | .unknown _ => some .unknownCommand

/-- The condition a Tick raises: the timeout (R202) or a discarded commit (R153, R208). -/
def tickCondition (s : State) : Option Condition :=
  match s.sup with
  | .uninitialized =>
    if countdownRuns s && decide (s.exitCountdown - 1 = 0) then some .handshakeTimeout else none
  | .idle =>
    if !s.sr.exitRequested && !s.sr.deleteFlashRequested && decide (s.pageIndex = s.cfg.pageSize) &&
      protectedAddress s.cfg (pageBase s.cfg s.flashPageAddress)
    then some .protectedWriteDiscarded else none
  | .terminal => none

/-- The condition an event raises; none in a block that is Terminal or faulted, which takes no event but
Reset. -/
def eventCondition (e : Event) (s : State) : Option Condition :=
  if s.halted then none
  else match e with
  | .receive frame => commandCondition (decode s.cfg frame) s
  | .request => none
  | .tick => tickCondition s
  | .reset => none

end Sys2Proof.Machine
end

