-- ==== Sys2Proof/Safety.lean ====
section
/-! DEFINITION. What claims are stated in: the invariant that every step keeps, the boot requirements, what a
claim about an observation is, the primitives of a programmed page, and the chain the CPU follows through the jump
words. -/

namespace Sys2Proof.Machine

/-- What the spec's rules say of every state that a run can reach. -/
structure State.Inv (s : State) : Prop where
  /-- R10 -/
  cfgValid : s.cfg.Valid
  /-- R29: sized to exactly one flash page -/
  pbLength : s.pb.length = s.cfg.pageSize
  /-- R30 -/
  pageIndexLe : s.pageIndex ≤ s.cfg.pageSize
  /-- R10: a page fills exactly, chunk by chunk -/
  pageIndexChunks : s.pageIndex % s.cfg.chunkN = 0
  /-- R31 -/
  addressAligned : s.flashPageAddress.toNat % s.cfg.pageSize = 0
  /-- R37, R209: control goes to TPL_ENTRY alone, and only a Terminal block has handed off -/
  handoffTarget : s.handoffTarget = if s.terminal then some s.cfg.tplEntry else none
  /-- R34, R201: the countdown that reaches 0 hands off -/
  countdownPositive : s.terminal = false → s.exitCountdown ≠ 0
  /-- R34 -/
  countdownLe : s.exitCountdown.toNat ≤ s.cfg.exitCount
  /-- R24, R25, R118: ApplicationReady is cleared only together with setting DeleteFlashRequested -/
  notReadyDeletes : s.sr.applicationReady = false → s.sr.deleteFlashRequested = true
  /-- R121: the overflow of a full page is the only fault -/
  faultFull : s.fault ≠ none → s.pageIndex = s.cfg.pageSize ∧ s.terminal = false
  /-- R57: PAGE_SIZE/2 words -/
  stageLength : s.nvm.stage.length = s.cfg.pageSize / 2
  /-- R60: an event ends with the controller not busy -/
  notBusy : s.nvm.busy = false
  /-- the canonical form of Flash -/
  flashWf : Memory.wf s.nvm.flash
  /-- R50: Flash has no byte at or above FLASH_SIZE -/
  flashBound : ∀ cell ∈ s.nvm.flash, cell.1 < s.cfg.flashSize

/-- R262, item 3: word 0 holds the boot vector. -/
def State.BootVectorPlaced (s : State) : Prop :=
  Memory.read s.nvm.flash 0 = some (bootVector s.cfg).lo ∧
  Memory.read s.nvm.flash 1 = some (bootVector s.cfg).hi

/-- A state that an observation may reach: a faulted one refutes every claim (R236, decision D16). -/
def State.Observable (s : State) : Prop := s.fault = none

/-- The claim that `n` steps from `s` end in a state with `P`. That no state on the way is faulted is part of what is
claimed and no premise of it, so a run that reaches a fault refutes every claim about it, whatever `P` is and whether
or not a Reset follows (R236, decision D16). A run that stops refutes it as well. -/
def State.Claims (s : State) (n : Nat) (P : State → Prop) : Prop :=
  match n with
  | 0 => s.Observable ∧ P s
  | n + 1 => s.Observable ∧ ∃ t, step s = .next t ∧ t.Claims n P

/-- R159: the end state of eraseAll, from Flash `m` to Flash `m'`. -/
def EraseEndState (c : Config) (m m' : Memory) : Prop :=
  Memory.read m' 0 = some (bootVector c).lo ∧
  Memory.read m' 1 = some (bootVector c).hi ∧
  (∀ a, 2 ≤ a → a < c.bootStart - 2 → Memory.read m' a = some c.erased) ∧
  Memory.read m' (c.bootStart - 2) = some (trampoline c c.erased c.erased).lo ∧
  Memory.read m' (c.bootStart - 1) = some (trampoline c c.erased c.erased).hi ∧
  (∀ a, c.bootStart ≤ a → Memory.read m' a = Memory.read m a)

/-- The page at `a` holds the image, and every other byte of Flash reads as before (R61). -/
def PageHolds (c : Config) (a : Nat) (img : List Byte) (m m' : Memory) : Prop :=
  (∀ j, j < c.pageSize → Memory.read m' (a + j) = img[j]?) ∧
  (∀ x, x < a ∨ a + c.pageSize ≤ x → Memory.read m' x = Memory.read m x)

/-- The primitives of `ProgramPage(a, img)` in the order of R61: the erase, the image's words staged in index order,
low byte first, and the write. -/
def programSequence (c : Config) (a : Nat) (img : List Byte) : List Output :=
  [.nvmErase a] ++
    (List.range (c.pageSize / 2)).map (fun i =>
      .nvmFill i (joinWord (img.getD (2 * i) 0) (img.getD (2 * i + 1) 0))) ++
    [.nvmWrite a]

/-- The CPU's control chain (R185): from word `W`, `n` relative jumps through Flash. -/
def State.jumpChain (s : State) : Nat → Disp → Option Disp
  | 0, W => some W
  | n + 1, W => match Memory.jumpFrom s.cfg s.nvm.flash W with
    | some W' => State.jumpChain s n W'
    | none => none

end Sys2Proof.Machine
end

