-- ==== Sys2Proof/Certificates/Slice0/Obligations.lean ====
section
/-! DEFINITION. The statements for the provers. Each docstring names the rules of spec/ that it formalises, and
the spec's decision or the log entry where a clause rests on one. -/

open Sys2Proof Sys2Proof.Machine

/-! ### Encoding -/

/-- Words written out from R83 and the default opcodes of R86 (decision D1). -/
def Obligations.DefaultFramesDecode : Prop :=
  decode Config.default [0x81] = .initdev ∧
  decode Config.default [0x82] = .getver ∧
  decode Config.default [0x83] = .delapp ∧
  decode Config.default [0x84, 0x12, 0x34] = .setaddr 0x12 0x34 ∧
  decode Config.default [0x85, 1, 2, 3, 4, 5, 6, 7, 8, 0x24] = .write [1, 2, 3, 4, 5, 6, 7, 8] 0x24 ∧
  decode Config.default [0x86] = .exit ∧
  decode Config.default [0x87, 0, 4] = .read 0 4 ∧
  decode Config.default [0x81, 0] = .unknown [0x81, 0] ∧
  decode Config.default [0x42, 0x10, 0x20] = .unknown [0x42, 0x10, 0x20] ∧
  decode Config.default [] = .unknown []

/-- R83 and R85: decoding the frame of a well-formed instruction gives the instruction, for every admitted
configuration and every operand. -/
def Obligations.DecodeOfEncode : Prop :=
  ∀ (c : Config) (i : Instr), c.Valid → i.wf c = true → decode c (encode c i) = i

/-- R85: every byte list is one instruction's frame, and its decoding is well formed. -/
def Obligations.EncodeOfDecode : Prop :=
  ∀ (c : Config) (q : List Byte), c.Valid → encode c (decode c q) = q ∧ (decode c q).wf c = true

/-- R85 and R87: a frame decodes as Unknown exactly when it is none of the frames of R83. That a known opcode
of the wrong length is Unknown is decision D15. -/
def Obligations.UnknownExactlyOutsideTheFormats : Prop :=
  ∀ (c : Config) (q : List Byte), c.Valid →
    (decode c q = .unknown q ↔
      ¬ (q = [c.opcVersion] ∨ q = [c.opcInit] ∨ q = [c.opcExit] ∨ q = [c.opcDelete] ∨
        (∃ hi lo, q = [c.opcSetaddr, hi, lo]) ∨
        (∃ d k, d.length = c.chunkN ∧ q = c.opcWrite :: (d ++ [k])) ∨
        (c.featureRead = true ∧ ∃ start length, q = [c.opcRead, start, length])))

/-- R83: the request formats, byte by byte; a ReadPageChunk frame is one only with FEATURE_READ. -/
def Obligations.RequestFormats : Prop :=
  ∀ c : Config, c.Valid →
    encode c .getver = [c.opcVersion] ∧
    encode c .initdev = [c.opcInit] ∧
    encode c .exit = [c.opcExit] ∧
    encode c .delapp = [c.opcDelete] ∧
    (∀ hi lo, encode c (.setaddr hi lo) = [c.opcSetaddr, hi, lo]) ∧
    (∀ d k, d.length = c.chunkN →
      (encode c (.write d k)).length = c.chunkN + 2 ∧
      (encode c (.write d k))[0]? = some c.opcWrite ∧
      (∀ j, j < c.chunkN → (encode c (.write d k))[1 + j]? = d[j]?) ∧
      (encode c (.write d k))[c.chunkN + 1]? = some k) ∧
    (∀ start length, encode c (.read start length) = [c.opcRead, start, length]) ∧
    (c.featureRead = false → ∀ start length,
      decode c [c.opcRead, start, length] = .unknown [c.opcRead, start, length])

/-! ### The step -/

/-- R110: a step whose event is a frame runs the decoded instruction, in a block that is neither Terminal nor
faulted; the event leaves the waiting list (log 6). -/
def Obligations.StepRunsDecodedFrame : Prop :=
  ∀ (s : State) (q : List Byte) (es : List Event),
    s.cfg.Valid → s.events = .receive q :: es → s.fault = none → s.terminal = false →
    step s = exec (decode s.cfg q) { s with events := es } ∧
    (∀ i : Instr, i.wf s.cfg = true → encode s.cfg i = q → step s = exec i { s with events := es })

/-- Every instruction completes: no operand and no state stops one (R110, R112-R121). That a chunk past the end of
the page is a next state with the block's fault in it, and no stop of the machine, is log 12; that data of another
length than CHUNK_N run is log 18. -/
def Obligations.EveryCommandCompletes : Prop :=
  ∀ (i : Instr) (s : State), ∃ t, exec i s = .next t

/-- R10: a configuration that breaks a constraint is refused as a whole. -/
def Obligations.InvalidConfigurationRefused : Prop :=
  ∀ s : State, ¬ s.cfg.Valid → step s = .refused .invalidConfig

/-- R110, R111, R200, R210, R236: a Terminal or faulted block takes no event but Reset (decisions D28 and D16).
That the event is then gone from the waiting list is the model's choice (log 10). -/
def Obligations.HaltedBlockIgnoresEvents : Prop :=
  ∀ (s : State) (e : Event) (es : List Event),
    s.cfg.Valid → s.events = e :: es → e ≠ .reset → (s.fault ≠ none ∨ s.terminal = true) →
    step s = .next { s with events := es }

/-- R111: a Request hands the reply to the transport in order and then empties it (decision D14); with an empty
reply it hands over nothing (log 23). -/
def Obligations.RequestTransmitsReply : Prop :=
  ∀ (s : State) (es : List Event),
    s.cfg.Valid → s.events = .request :: es → s.fault = none → s.terminal = false →
    step s = .next { s with
      events := es
      outputs := s.outputs ++ s.reply.map .transmit
      reply := [] }

/-! ### Reset -/

/-- R260: the Reset event, in every state, Terminal and faulted ones too. The page buffer is drawn (decision
D13): the statement holds whatever the draw. The values are R40's (decisions D10-D14, D16, D20, D21, D23);
that the fault ends with its run is log 11. Busy is no block element:
that it is false at Reset is R59 (decision D26), and that the Reset event makes it so is log 17 (DEDUCED). -/
def Obligations.ResetRestoresTheBlock : Prop :=
  ∀ (s : State) (es : List Event), s.cfg.Valid → s.events = .reset :: es →
    ∃ t, step s = .next t ∧
      t.sup = .uninitialized ∧
      t.sr = ⟨false, false, false, true, false⟩ ∧ t.sr.toByte = 0x08 ∧
      t.pb.length = s.cfg.pageSize ∧
      t.pageIndex = 0 ∧
      t.flashPageAddress = 0 ∧
      t.trampolineBytes = trampoline s.cfg s.cfg.erased s.cfg.erased ∧
      t.terminal = false ∧
      t.exitCountdown.toNat = s.cfg.exitCount ∧
      t.indicator = false ∧
      t.reply = [] ∧
      t.handoffTarget = none ∧
      t.fault = none ∧
      t.nvm.flash = s.nvm.flash ∧ t.nvm.busy = false ∧
      t.cfg = s.cfg ∧ t.events = es ∧ t.outputs = s.outputs

/-- R40: the state after reset. SR's value is the spec's own; the others are its decisions. -/
def Obligations.ResetStateValues : Prop :=
  State.reset.cfg = Config.default ∧
  State.reset.sr.toByte = 0x08 ∧
  State.reset.pb.length = 64 ∧
  State.reset.pageIndex = 0 ∧
  State.reset.flashPageAddress = 0x0000 ∧
  State.reset.trampolineBytes = ⟨0xE0, 0xC2⟩ ∧
  State.reset.terminal = false ∧
  State.reset.sup = .uninitialized ∧
  State.reset.exitCountdown.toNat = Config.default.exitCount ∧
  State.reset.indicator = false ∧
  State.reset.reply = [] ∧
  State.reset.handoffTarget = none ∧
  State.reset.fault = none

/-- The invariant holds right after reset. -/
def Obligations.ResetMeetsInvariant : Prop := State.reset.Inv

/-! ### The commands -/

/-- R113: InitDevice, in every state; idempotent, and Idle at once when the other half is done. The example's byte
is that of the default opcode (decision D1). -/
def Obligations.InitDeviceSetsInitStep1 : Prop :=
  ∀ s : State,
    let t : State := { s with sr := { s.sr with initStep1 := true }, reply := [~~~s.cfg.opcInit] }
    encode s.cfg .initdev = [s.cfg.opcInit] ∧
    exec .initdev s = .next t ∧ exec .initdev t = .next t ∧
    (s.terminal = false → s.sr.initStep2 = true → t.sup = .idle) ∧
    (s.cfg = Config.default → t.reply = [0x7E])

/-- R112: GetVersion, in every state; idempotent, and Idle at once when the other half is done; the base address
goes out high byte first. The example's bytes are those of the default configuration (decisions D1, D3, D4). -/
def Obligations.GetVersionSetsInitStep2 : Prop :=
  ∀ s : State,
    let t : State := { s with
      sr := { s.sr with initStep2 := true }
      reply := [~~~s.cfg.opcVersion, s.cfg.tag0, s.cfg.tag1, s.cfg.tag2, s.cfg.verMajor, s.cfg.verMinor,
        BitVec.ofNat 8 (s.cfg.bootStart / 256), BitVec.ofNat 8 s.cfg.bootStart] }
    encode s.cfg .getver = [s.cfg.opcVersion] ∧
    (s.cfg.Valid → exec .getver s = .next t ∧ exec .getver t = .next t) ∧
    (s.terminal = false → s.sr.initStep1 = true → t.sup = .idle) ∧
    (s.cfg = Config.default → t.reply = [0x7D, 0x54, 0x4D, 0x4E, 0x01, 0x00, 0x1A, 0x40])

/-- R114: RequestExit sets ExitRequested and acks. An Uninitialized tick does the same with the flag as
without it; an Idle tick hands off, or erases and then hands off. The example's byte is that of the default opcode
(decision D1). -/
def Obligations.RequestExitSetsExitRequested : Prop :=
  ∀ s : State,
    let t : State := { s with sr := { s.sr with exitRequested := true }, reply := [~~~s.cfg.opcExit] }
    encode s.cfg .exit = [s.cfg.opcExit] ∧ exec .exit s = .next t ∧
    (s.fault = none → s.sup = .uninitialized → ∀ u, onTick s = .next u →
      onTick t = .next { u with sr := t.sr, reply := t.reply }) ∧
    (s.fault = none → s.sup = .idle → s.sr.applicationReady = true →
      onTick t = .next (handoff s.cfg.tplEntry t)) ∧
    (s.fault = none → s.sup = .idle → s.sr.applicationReady = false →
      onTick t = andThen (eraseAll t) (fun u => .next (handoff u.cfg.tplEntry u))) ∧
    (s.cfg = Config.default → t.reply = [0x79])

/-- R115: DeleteApplication sets DeleteFlashRequested and acks. Erasing happens at the next Idle tick alone,
and an exit with a valid application wins over it. The example's byte is that of the default opcode (decision
D1). -/
def Obligations.DeleteApplicationSetsDeleteFlashRequested : Prop :=
  ∀ s : State,
    let t : State := { s with sr := { s.sr with deleteFlashRequested := true }, reply := [~~~s.cfg.opcDelete] }
    encode s.cfg .delapp = [s.cfg.opcDelete] ∧ exec .delapp s = .next t ∧
    (s.fault = none → s.sup = .uninitialized → ∀ u, onTick s = .next u →
      onTick t = .next { u with sr := t.sr, reply := t.reply }) ∧
    (s.fault = none → s.sup = .idle →
      (s.sr.exitRequested = true → s.sr.applicationReady = true →
        onTick t = .next (handoff s.cfg.tplEntry t)) ∧
      (s.sr.exitRequested = false ∨ s.sr.applicationReady = false →
        onTick t = andThen (eraseAll t) (fun u => .next (handoff u.cfg.tplEntry u)))) ∧
    (s.cfg = Config.default → t.reply = [0x7C])

/-- R116: SetPageAddress stores the received address aligned down (decision D10), with no range check, and
replies with the sum of the bytes as received; every other part of the state is as before. -/
def Obligations.SetPageAddressStoresAlignedAddress : Prop :=
  ∀ (s : State) (hi lo : Byte), s.cfg.Valid →
    ∃ t, exec (.setaddr hi lo) s = .next t ∧
      t = { s with flashPageAddress := t.flashPageAddress, reply := [~~~s.cfg.opcSetaddr, hi + lo] } ∧
      t.flashPageAddress.toNat = (hi.toNat * 256 + lo.toNat) / s.cfg.pageSize * s.cfg.pageSize

/-- R117: a chunk that fits goes into the buffer at the fill index, whether or not its checksum matches; the
index advances by CHUNK_N; the reply carries the computed sum, which is over this frame's data alone
(decision D17); a mismatch has R118's effect; every other part of the state is as before. -/
def Obligations.WritePageChunkAppends : Prop :=
  ∀ (s : State) (d : List Byte) (k : Byte),
    d.length = s.cfg.chunkN → s.pb.length = s.cfg.pageSize → s.pageIndex + s.cfg.chunkN ≤ s.cfg.pageSize →
    ∃ t, exec (.write d k) s = .next t ∧
      t = { s with
        pb := t.pb
        pageIndex := s.pageIndex + s.cfg.chunkN
        sr := if sum8 d = k then s.sr
          else { s.sr with applicationReady := false, deleteFlashRequested := true }
        reply := [~~~s.cfg.opcWrite, sum8 d] } ∧
      t.pb.length = s.cfg.pageSize ∧
      (∀ j, j < s.cfg.chunkN → t.pb[s.pageIndex + j]? = d[j]?) ∧
      (∀ x, x < s.pageIndex ∨ s.pageIndex + s.cfg.chunkN ≤ x → t.pb[x]? = s.pb[x]?)

/-- R118: a mismatch clears ApplicationReady and sets DeleteFlashRequested, and has no other effect: but for
the flags the state is the one a good chunk leaves, with the bytes in the buffer, the index advanced and the normal
reply, wherever the fill index stands. -/
def Obligations.ChecksumMismatchMarksInvalid : Prop :=
  ∀ (s : State) (d : List Byte) (k : Byte),
    d.length = s.cfg.chunkN → s.pb.length = s.cfg.pageSize → s.pageIndex + s.cfg.chunkN ≤ s.cfg.pageSize →
    sum8 d ≠ k →
    ∃ good, exec (.write d (sum8 d)) s = .next good ∧ good.sr = s.sr ∧
      (∀ j, j < s.cfg.chunkN → good.pb[s.pageIndex + j]? = d[j]?) ∧
      good.pageIndex = s.pageIndex + s.cfg.chunkN ∧
      good.reply = [~~~s.cfg.opcWrite, sum8 d] ∧
      exec (.write d k) s =
        .next { good with sr := { s.sr with applicationReady := false, deleteFlashRequested := true } } ∧
      (s.cfg = Config.default → d = [1, 2, 3, 4, 5, 6, 7, 8] → good.reply = [0x7A, 0x24])

/-- R121, R236, R239: a chunk past the end of the page raises the fault and has no other effect, whatever its
checksum, and an existing reason is kept (decision D16; the fault is the block's own element, log 12). A faulted state
refutes every claim: a claim about a run holds exactly when the run ends with what is claimed and no state on the way,
the last one included, is faulted; so no claim holds of a run that reaches a fault, a Reset after it or not, and none of
a run that delivers a chunk past the end of the page to a block that takes it. -/
def Obligations.PageOverflowFaults : Prop :=
  (∀ (s : State) (d : List Byte) (k : Byte), s.cfg.pageSize < s.pageIndex + s.cfg.chunkN →
    (s.fault = none → exec (.write d k) s = .next { s with fault := some .pageOverflow }) ∧
    (s.fault ≠ none → exec (.write d k) s = .next s)) ∧
  (∀ (s : State) (n : Nat) (P : State → Prop),
    s.Claims n P ↔ (∃ t, Host.Core.run core n s = .next t ∧ P t) ∧
      ∀ k u, k ≤ n → Host.Core.run core k s = .next u → u.fault = none) ∧
  (∀ (s u : State) (k n : Nat) (P : State → Prop),
    Host.Core.run core k s = .next u → u.fault ≠ none → k ≤ n → ¬ s.Claims n P) ∧
  (∀ (s : State) (q : List Byte) (d : List Byte) (k : Byte) (es : List Event) (n : Nat) (P : State → Prop),
    s.events = .receive q :: es → decode s.cfg q = .write d k → s.terminal = false →
    s.cfg.pageSize < s.pageIndex + s.cfg.chunkN → ¬ s.Claims (n + 1) P)

/-- R119: a valid range is returned with its sum, and nothing but the reply changes (decision D18). -/
def Obligations.ReadPageChunkReturnsSlice : Prop :=
  ∀ (s : State) (start length : Byte),
    s.pb.length = s.cfg.pageSize → 1 ≤ length.toNat → length.toNat ≤ s.cfg.readMax →
    start.toNat + length.toNat ≤ s.cfg.pageSize →
    ∃ xs : List Byte, xs.length = length.toNat ∧
      (∀ j, j < length.toNat → xs[j]? = s.pb[start.toNat + j]?) ∧
      exec (.read start length) s = .next { s with reply := ~~~s.cfg.opcRead :: (xs ++ [sum8 xs]) }

/-- R119, R237: any other range gives the error byte alone, and nothing but the reply changes (decision D18). -/
def Obligations.ReadPageChunkRejectsRange : Prop :=
  ∀ (s : State) (start length : Byte),
    (length = 0 ∨ s.cfg.readMax < length.toNat ∨ s.cfg.pageSize < start.toNat + length.toNat) →
    exec (.read start length) s = .next { s with reply := [s.cfg.readErrorByte] }

/-- R120, R232: one unknown byte per byte received, and no state change but the reply; for every frame, the
empty one too. -/
def Obligations.UnknownRepliesPerByte : Prop :=
  ∀ (s : State) (q : List Byte),
    ∃ t, exec (.unknown q) s = .next t ∧ t = { s with reply := t.reply } ∧
      t.reply.length = q.length ∧ ∀ b ∈ t.reply, b = s.cfg.unknownByte

/-- R12: sum8 is the integer sum mod 2^8. -/
def Obligations.SumIsModulo256 : Prop :=
  ∀ xs : List Byte, (sum8 xs).toNat = (xs.map BitVec.toNat).sum % 256

/-- The frame of the commands without operands and of Unknown (R112-R115, R120): the reply and the command's own
flag may change, every other flag and element and every byte of Flash is as before. -/
def Obligations.HandshakeCommandFrames : Prop :=
  ∀ (i : Instr) (s t : State),
    (i = .initdev ∨ i = .getver ∨ i = .exit ∨ i = .delapp ∨ ∃ q, i = .unknown q) → exec i s = .next t →
    (i ≠ .initdev → t.sr.initStep1 = s.sr.initStep1) ∧
    (i ≠ .getver → t.sr.initStep2 = s.sr.initStep2) ∧
    (i ≠ .exit → t.sr.exitRequested = s.sr.exitRequested) ∧
    (i ≠ .delapp → t.sr.deleteFlashRequested = s.sr.deleteFlashRequested) ∧
    t.sr.applicationReady = s.sr.applicationReady ∧
    t.pb = s.pb ∧ t.pageIndex = s.pageIndex ∧ t.flashPageAddress = s.flashPageAddress ∧
    t.trampolineBytes = s.trampolineBytes ∧ t.terminal = s.terminal ∧ t.exitCountdown = s.exitCountdown ∧
    t.indicator = s.indicator ∧ t.handoffTarget = s.handoffTarget ∧ t.fault = s.fault ∧
    t.cfg = s.cfg ∧ t.events = s.events ∧ t.outputs = s.outputs ∧ t.draws = s.draws ∧
    t.nvm.stage = s.nvm.stage ∧ t.nvm.busy = s.nvm.busy ∧
    ∀ a, Memory.read t.nvm.flash a = Memory.read s.nvm.flash a

/-- The frame of SetPageAddress, WritePageChunk and ReadPageChunk (R116, R117, R119, R121): the reply may change;
the page address only by the first; the buffer, the index, the fault and the two flags of a mismatch only by
the second (the fault is the block's own element, log 12), and of the buffer only the chunk's bytes; every other
element and every byte of Flash is as before. -/
def Obligations.PageCommandFrames : Prop :=
  ∀ (i : Instr) (s t : State),
    ((∃ hi lo, i = .setaddr hi lo) ∨ (∃ d k, i = .write d k ∧ d.length = s.cfg.chunkN ∧
      s.pb.length = s.cfg.pageSize) ∨ ∃ start length, i = .read start length) →
    exec i s = .next t →
    t.sr.initStep1 = s.sr.initStep1 ∧ t.sr.initStep2 = s.sr.initStep2 ∧
    t.sr.exitRequested = s.sr.exitRequested ∧
    ((∀ d k, i ≠ .write d k) → t.sr = s.sr ∧ t.pb = s.pb ∧ t.pageIndex = s.pageIndex ∧ t.fault = s.fault) ∧
    ((∀ hi lo, i ≠ .setaddr hi lo) → t.flashPageAddress = s.flashPageAddress) ∧
    (∀ x, x < s.pageIndex ∨ s.pageIndex + s.cfg.chunkN ≤ x → t.pb[x]? = s.pb[x]?) ∧
    t.trampolineBytes = s.trampolineBytes ∧ t.terminal = s.terminal ∧ t.exitCountdown = s.exitCountdown ∧
    t.indicator = s.indicator ∧ t.handoffTarget = s.handoffTarget ∧
    t.cfg = s.cfg ∧ t.events = s.events ∧ t.outputs = s.outputs ∧ t.draws = s.draws ∧
    t.nvm.stage = s.nvm.stage ∧ t.nvm.busy = s.nvm.busy ∧
    ∀ a, Memory.read t.nvm.flash a = Memory.read s.nvm.flash a

/-- R231, R232-R235, R237, R239: when each condition is raised, and what it says of the outcome (decision D34, which
names the codes). Every Unknown raises X1 (R232), exactly the three bad ranges X5 (R237, decision D18), a chunk past
the end F1 before its checksum is looked at (R239, decision D16), a chunk that fits X2 exactly when its checksum is
wrong; an Uninitialized tick X4 exactly when it hands off (R202); an Idle tick X3 exactly when it commits a full page
at or above BOOT_START (R153, R208); a Request, a Reset and a halted block none. The overflow as a next state is log 12;
that a discarded commit still advances the address and clears the index is R208 and decision D27. -/
def Obligations.ConditionsHaveTheirOutcomes : Prop :=
  (∀ (i : Instr) (s : State),
    (commandCondition i s = some .unknownCommand ↔ ∃ q, i = .unknown q) ∧
    (commandCondition i s = some .readRangeError ↔ ∃ start length, i = .read start length ∧
      (length = 0 ∨ s.cfg.readMax < length.toNat ∨ s.cfg.pageSize < start.toNat + length.toNat)) ∧
    (commandCondition i s = some .pageOverflow ↔ ∃ d k, i = .write d k ∧
      s.cfg.pageSize < s.pageIndex + s.cfg.chunkN) ∧
    (commandCondition i s = some .checksumMismatch ↔ ∃ d k, i = .write d k ∧
      s.pageIndex + s.cfg.chunkN ≤ s.cfg.pageSize ∧ sum8 d ≠ k) ∧
    commandCondition i s ≠ some .handshakeTimeout ∧ commandCondition i s ≠ some .protectedWriteDiscarded) ∧
  (∀ s : State,
    (eventCondition .tick s = some .handshakeTimeout ↔ s.fault = none ∧ s.sup = .uninitialized ∧
      (s.cfg.partialInitTimeout = true ∨ (s.sr.initStep1 = false ∧ s.sr.initStep2 = false)) ∧
      s.exitCountdown = 1) ∧
    (eventCondition .tick s = some .protectedWriteDiscarded ↔ s.fault = none ∧ s.sup = .idle ∧
      s.sr.exitRequested = false ∧ s.sr.deleteFlashRequested = false ∧ s.pageIndex = s.cfg.pageSize ∧
      s.cfg.bootStart ≤ (pageBase s.cfg s.flashPageAddress).toNat) ∧
    (eventCondition .tick s = none ∨ eventCondition .tick s = some .handshakeTimeout ∨
      eventCondition .tick s = some .protectedWriteDiscarded) ∧
    (∀ q, s.fault = none → s.terminal = false →
      eventCondition (.receive q) s = commandCondition (decode s.cfg q) s) ∧
    eventCondition .request s = none ∧ eventCondition .reset s = none ∧
    (∀ e, s.fault ≠ none ∨ s.terminal = true → eventCondition e s = none)) ∧
  (∀ (i : Instr) (s : State), s.fault = none →
    (commandCondition i s = some .unknownCommand →
      ∃ q, i = .unknown q ∧ exec i s = .next { s with reply := List.replicate q.length s.cfg.unknownByte }) ∧
    (commandCondition i s = some .readRangeError →
      exec i s = .next { s with reply := [s.cfg.readErrorByte] }) ∧
    (commandCondition i s = some .pageOverflow → exec i s = .next { s with fault := some .pageOverflow }) ∧
    (commandCondition i s = some .checksumMismatch → ∃ t, exec i s = .next t ∧ t.fault = none ∧
      t.sr = { s.sr with applicationReady := false, deleteFlashRequested := true }) ∧
    (commandCondition i s = none → ∃ t, exec i s = .next t ∧ t.fault = none ∧
      t.sr.applicationReady = s.sr.applicationReady)) ∧
  (∀ s : State, s.cfg.Valid →
    (eventCondition .tick s = some .handshakeTimeout →
      onTick s = .next (handoff s.cfg.tplEntry { s with indicator := !s.indicator, exitCountdown := 0 })) ∧
    (eventCondition .tick s = some .protectedWriteDiscarded →
      onTick s = .next { s with
        flashPageAddress := s.flashPageAddress + BitVec.ofNat 16 s.cfg.pageSize
        pageIndex := 0 }))

/-! ### The memory controller -/

/-- R56: an erase makes every byte of the page ERASED, and no other byte changes; busy becomes true. -/
def Obligations.EraseSetsThePage : Prop :=
  ∀ (a : Nat) (s : State),
    (∀ j, j < s.cfg.pageSize → Memory.read (nvmErase a s).nvm.flash (a + j) = some s.cfg.erased) ∧
    (∀ x, x < a ∨ a + s.cfg.pageSize ≤ x →
      Memory.read (nvmErase a s).nvm.flash x = Memory.read s.nvm.flash x) ∧
    (nvmErase a s).nvm.busy = true

/-- R57: a fill sets one word of the staging buffer, and changes neither Flash nor busy (decision D26). -/
def Obligations.FillStagesOneWord : Prop :=
  ∀ (i : Nat) (w : Word) (s : State), i < s.nvm.stage.length →
    (nvmFill i w s).nvm.stage[i]? = some w ∧
    (∀ k, k ≠ i → (nvmFill i w s).nvm.stage[k]? = s.nvm.stage[k]?) ∧
    (nvmFill i w s).nvm.flash = s.nvm.flash ∧ (nvmFill i w s).nvm.busy = s.nvm.busy

/-- R58: a write puts each staged word into the page, low byte first, and no other byte changes; busy becomes
true. R58 leaves a page that was not erased first out of the model, since the block never writes one: that the effect
is the same there is log 22 (DESIGN CHOICE). -/
def Obligations.WriteProgramsStagedWords : Prop :=
  ∀ (a : Nat) (s : State),
    (∀ i w, s.nvm.stage[i]? = some w →
      Memory.read (nvmWrite a s).nvm.flash (a + 2 * i) = some (lo8 w) ∧
      Memory.read (nvmWrite a s).nvm.flash (a + 2 * i + 1) = some (hi8 w)) ∧
    (∀ x, x < a ∨ a + 2 * s.nvm.stage.length ≤ x →
      Memory.read (nvmWrite a s).nvm.flash x = Memory.read s.nvm.flash x) ∧
    (nvmWrite a s).nvm.busy = true

/-- R61: ProgramPage on a controller whose busy falls (R60). The primitives are the erase of the page, the fills of the
image's words in index order, and the write of the page just erased (R58, R67), and no other; the page then holds the
image and no other byte of Flash changes. -/
def Obligations.ProgramPageNetEffect : Prop :=
  ∀ (s : State) (a : Nat) (img : List Byte),
    s.cfg.Valid → s.nvm.neverReady = false → s.nvm.stage.length = s.cfg.pageSize / 2 →
    img.length = s.cfg.pageSize →
    ∃ t, programPage a img s = .next t ∧
      t = { s with nvm := t.nvm, outputs := s.outputs ++ programSequence s.cfg a img } ∧
      PageHolds s.cfg a img s.nvm.flash t.nvm.flash ∧ t.nvm.busy = false

/-- R60, R270: with a controller that never clears busy, a commit below the bootloader and an erase hang. The
hang is the model's fault, and weak fairness an explicit premise elsewhere (log 7). -/
def Obligations.ControllerHangStopsCommits : Prop :=
  ∀ (s : State) (pa : Word), s.cfg.Valid → s.nvm.neverReady = true →
    ((pageBase s.cfg pa).toNat < s.cfg.bootStart → commitPage pa s = .fault .controllerHang) ∧
    eraseAll s = .fault .controllerHang

/-! ### The trampoline -/

/-- R181: the trampoline at word S - 1 reaches the word that the application's vector at word 0 reached, for
every pair of bytes. Where a jump goes is R89's formula (decision D7), which the spec marks as general knowledge and
log 19 as PRESUMED. -/
def Obligations.TrampolineRoundTrip : Prop :=
  ∀ (c : Config) (lo hi : Byte), c.Valid →
    target (c.wordS - 1) (dispOf (joinWord (trampoline c lo hi).lo (trampoline c lo hi).hi)) =
      target 0 (dispOf (joinWord lo hi)) ∧
    nibbleOf (joinWord (trampoline c lo hi).lo (trampoline c lo hi).hi) = c.rjmpNibble

/-- R182: the boot vector is a relative jump at word 0 to word S (R89's formula: decision D7, log 19, PRESUMED). -/
def Obligations.BootVectorReachesBootloader : Prop :=
  ∀ c : Config, c.Valid →
    target 0 (dispOf (joinWord (bootVector c).lo (bootVector c).hi)) = c.wordS ∧
    nibbleOf (joinWord (bootVector c).lo (bootVector c).hi) = c.rjmpNibble ∧
    2 * c.wordS.toNat = c.bootStart

/-- R183: the calculator does not read the vector's upper nibble (decision D32). -/
def Obligations.TrampolineIgnoresNibble : Prop :=
  ∀ (c : Config) (lo hi hi' : Byte), hi.extractLsb' 0 4 = hi'.extractLsb' 0 4 →
    trampoline c lo hi = trampoline c lo hi'

/-! ### The Flash Writer -/

/-- R151, R154 and R155 for page 0: the trampoline comes from the uploaded vector, the boot vector replaces it in
the buffer, page 0 holds the buffer, and the trampoline page holds ERASED with the trampoline word in its last
two bytes (decision D25); no other byte of Flash and no other element changes. The primitives are ProgramPage's for
page 0 and then for the trampoline page (R61), so each write is to the page just erased. -/
def Obligations.CommitPageZero : Prop :=
  ∀ (s : State) (pa : Word) (lo hi : Byte), s.Inv → s.nvm.neverReady = false → pageBase s.cfg pa = 0 →
    s.pb[0]? = some lo → s.pb[1]? = some hi →
    ∃ t, commitPage pa s = .next t ∧
      t = { s with
        pb := t.pb
        trampolineBytes := trampoline s.cfg lo hi
        nvm := t.nvm
        outputs := s.outputs ++ programSequence s.cfg 0 t.pb ++
          programSequence s.cfg s.cfg.tplPage (List.replicate (s.cfg.pageSize - 2) s.cfg.erased ++
            [(trampoline s.cfg lo hi).lo, (trampoline s.cfg lo hi).hi]) } ∧
      t.pb.length = s.cfg.pageSize ∧
      t.pb[0]? = some (bootVector s.cfg).lo ∧ t.pb[1]? = some (bootVector s.cfg).hi ∧
      (∀ x, 2 ≤ x → t.pb[x]? = s.pb[x]?) ∧
      (∀ j, j < s.cfg.pageSize → Memory.read t.nvm.flash j = t.pb[j]?) ∧
      (∀ a, s.cfg.tplPage ≤ a → a < s.cfg.bootStart - 2 → Memory.read t.nvm.flash a = some s.cfg.erased) ∧
      Memory.read t.nvm.flash (s.cfg.bootStart - 2) = some (trampoline s.cfg lo hi).lo ∧
      Memory.read t.nvm.flash (s.cfg.bootStart - 1) = some (trampoline s.cfg lo hi).hi ∧
      (∀ a, s.cfg.pageSize ≤ a → (a < s.cfg.tplPage ∨ s.cfg.bootStart ≤ a) →
        Memory.read t.nvm.flash a = Memory.read s.nvm.flash a)

/-- R152 and R154 for the trampoline page: its last two bytes are the stored trampoline word, and the page holds
the buffer; no other byte of Flash and no other element changes. The primitives are ProgramPage's for that page
(R61). -/
def Obligations.CommitTrampolinePage : Prop :=
  ∀ (s : State) (pa : Word), s.Inv → s.nvm.neverReady = false →
    (pageBase s.cfg pa).toNat = s.cfg.tplPage →
    ∃ t, commitPage pa s = .next t ∧
      t = { s with
        pb := t.pb
        nvm := t.nvm
        outputs := s.outputs ++ programSequence s.cfg s.cfg.tplPage t.pb } ∧
      t.pb.length = s.cfg.pageSize ∧
      t.pb[s.cfg.pageSize - 2]? = some s.trampolineBytes.lo ∧
      t.pb[s.cfg.pageSize - 1]? = some s.trampolineBytes.hi ∧
      (∀ x, x < s.cfg.pageSize - 2 → t.pb[x]? = s.pb[x]?) ∧
      PageHolds s.cfg s.cfg.tplPage t.pb s.nvm.flash t.nvm.flash

/-- R154 for every other page below the bootloader: that page alone is programmed, with the buffer as it
stands, by ProgramPage's primitives for it (R61). -/
def Obligations.CommitOtherPage : Prop :=
  ∀ (s : State) (pa : Word), s.Inv → s.nvm.neverReady = false →
    pageBase s.cfg pa ≠ 0 → (pageBase s.cfg pa).toNat < s.cfg.tplPage →
    ∃ t, commitPage pa s = .next t ∧
      t = { s with
        nvm := t.nvm
        outputs := s.outputs ++ programSequence s.cfg (pageBase s.cfg pa).toNat s.pb } ∧
      PageHolds s.cfg (pageBase s.cfg pa).toNat s.pb s.nvm.flash t.nvm.flash

/-- R153: a commit at or above BOOT_START changes nothing, issues no primitive and succeeds; at the Tick that
commits, the address still advances and the index still clears. -/
def Obligations.ProtectedCommitDiscarded : Prop :=
  ∀ (s : State) (es : List Event), s.cfg.Valid → s.cfg.bootStart ≤ (pageBase s.cfg s.flashPageAddress).toNat →
    commitPage s.flashPageAddress s = .next s ∧
    (s.events = .tick :: es → s.fault = none → s.sup = .idle → s.sr.exitRequested = false →
      s.sr.deleteFlashRequested = false → s.pageIndex = s.cfg.pageSize →
      step s = .next { s with
        events := es
        flashPageAddress := s.flashPageAddress + BitVec.ofNat 16 s.cfg.pageSize
        pageIndex := 0 })

/-- R158, R159: eraseAll's end state; the address and the fill index stay. The primitives are ProgramPage's for page
0 and for the trampoline page, then one erase for each page from page 1 up to, not including, the trampoline page, in
address order; the buffer is left as page 0 was committed. That the trampoline page is kept valid is conflict C2 and
decision D24. -/
def Obligations.EraseAllEndState : Prop :=
  ∀ s : State, s.Inv → s.nvm.neverReady = false →
    ∃ t, eraseAll s = .next t ∧
      t = { s with
        pb := (bootVector s.cfg).lo :: (bootVector s.cfg).hi :: List.replicate (s.cfg.pageSize - 2) s.cfg.erased
        trampolineBytes := trampoline s.cfg s.cfg.erased s.cfg.erased
        nvm := t.nvm
        outputs := s.outputs ++ programSequence s.cfg 0 t.pb ++
          programSequence s.cfg s.cfg.tplPage (List.replicate (s.cfg.pageSize - 2) s.cfg.erased ++
            [(trampoline s.cfg s.cfg.erased s.cfg.erased).lo, (trampoline s.cfg s.cfg.erased s.cfg.erased).hi]) ++
          (List.range (s.cfg.tplPage / s.cfg.pageSize - 1)).map
            (fun i => .nvmErase ((i + 1) * s.cfg.pageSize)) } ∧
      EraseEndState s.cfg s.nvm.flash t.nvm.flash

/-! ### The Supervisor -/

/-- R201, R202, R203: the Uninitialized tick blinks, counts down when the countdown runs, and hands off when it
reaches 0; it reads no flag but the init flags. One Tick paces both (decisions D19, D21), and the two readings
of a partial handshake are the parameter's two values (decision D20). A countdown of 0, which no run reaches in
Uninitialized, wraps to 255 and does not hand off: log 13 (DEDUCED). -/
def Obligations.UninitializedTick : Prop :=
  ∀ (s : State) (es : List Event), s.cfg.Valid → s.events = .tick :: es → s.fault = none →
    s.sup = .uninitialized →
    (s.cfg.partialInitTimeout = false → (s.sr.initStep1 = true ∨ s.sr.initStep2 = true) →
      step s = .next { s with events := es, indicator := !s.indicator }) ∧
    ((s.cfg.partialInitTimeout = true ∨ (s.sr.initStep1 = false ∧ s.sr.initStep2 = false)) →
      (s.exitCountdown ≠ 1 → step s = .next { s with
        events := es
        indicator := !s.indicator
        exitCountdown := s.exitCountdown - 1 }) ∧
      (s.exitCountdown = 1 → step s = .next { s with
        events := es
        indicator := !s.indicator
        exitCountdown := 0
        terminal := true
        handoffTarget := some s.cfg.tplEntry
        outputs := s.outputs ++ [.handoff s.cfg.tplEntry] }))

/-- R202, R272: with no master at all, the block hands off after exactly as many ticks as the countdown holds,
with no flag set and Flash as it was; before the last tick it is still Uninitialized, and no state on the way is faulted
(R236). -/
def Obligations.TimeoutHandsOff : Prop :=
  ∀ (s : State) (es : List Event), s.cfg.Valid → s.fault = none → s.terminal = false →
    s.sr.initStep1 = false → s.sr.initStep2 = false → s.exitCountdown ≠ 0 →
    s.events = List.replicate s.exitCountdown.toNat .tick ++ es →
    s.Claims s.exitCountdown.toNat (fun t =>
      t.sup = .terminal ∧ t.handoffTarget = some s.cfg.tplEntry ∧ t.exitCountdown = 0 ∧
      t.sr = s.sr ∧ t.nvm = s.nvm ∧ t.pb = s.pb ∧ t.events = es) ∧
    (∀ k, k < s.exitCountdown.toNat → s.Claims k (fun t => t.sup = .uninitialized ∧
      t.exitCountdown.toNat = s.exitCountdown.toNat - k))

/-- R212: the two halves of the handshake in either order make the block Idle, and one alone does not. -/
def Obligations.HandshakeInEitherOrder : Prop :=
  ∀ (s : State) (es : List Event), s.cfg.Valid → s.fault = none → s.terminal = false →
    s.sr.initStep1 = false → s.sr.initStep2 = false →
    (s.events = .receive [s.cfg.opcInit] :: .receive [s.cfg.opcVersion] :: es →
      ∃ t u, step s = .next t ∧ t.sup = .uninitialized ∧ step t = .next u ∧ u.sup = .idle ∧
        u.exitCountdown = s.exitCountdown ∧ u.indicator = s.indicator) ∧
    (s.events = .receive [s.cfg.opcVersion] :: .receive [s.cfg.opcInit] :: es →
      ∃ t u, step s = .next t ∧ t.sup = .uninitialized ∧ step t = .next u ∧ u.sup = .idle ∧
        u.exitCountdown = s.exitCountdown ∧ u.indicator = s.indicator)

/-- R204, R205, R209: an Idle tick that finds ExitRequested and ApplicationReady hands off at TPL_ENTRY (decision
D23) with no change of Flash, whatever DeleteFlashRequested and the fill index are (decision D22). -/
def Obligations.ExitWithApplicationHandsOff : Prop :=
  ∀ (s : State) (es : List Event), s.cfg.Valid → s.events = .tick :: es → s.fault = none → s.sup = .idle →
    s.sr.exitRequested = true → s.sr.applicationReady = true →
    step s = .next { s with
      events := es
      terminal := true
      handoffTarget := some s.cfg.tplEntry
      outputs := s.outputs ++ [.handoff s.cfg.tplEntry] }

/-- R206: an exit without a valid application erases flash and then hands off; the handoff runs the erased-state
trampoline back to word 0 and into the bootloader, where the erased byte is the default 0xFF (decision D6): with
another erased byte the same trampoline has another target (log 21). Where those jumps go is R89's formula (decision
D7; log 19, PRESUMED). -/
def Obligations.ExitWithoutApplicationErases : Prop :=
  ∀ (s : State) (es : List Event), s.Inv → s.nvm.neverReady = false → s.events = .tick :: es →
    s.fault = none → s.sup = .idle → s.sr.exitRequested = true → s.sr.applicationReady = false →
    step s = andThen (eraseAll { s with events := es }) (fun u => .next (handoff u.cfg.tplEntry u)) ∧
    ∃ t, step s = .next t ∧ t.sup = .terminal ∧ t.handoffTarget = some s.cfg.tplEntry ∧
      EraseEndState s.cfg s.nvm.flash t.nvm.flash ∧
      (s.cfg.erased = 0xFF →
        t.jumpChain 1 (s.cfg.wordS - 1) = some 0 ∧ t.jumpChain 2 (s.cfg.wordS - 1) = some s.cfg.wordS)

/-- R207: DeleteFlashRequested without ExitRequested erases flash and then hands off; a checksum mismatch ends
here too. -/
def Obligations.DeleteErasesAndHandsOff : Prop :=
  ∀ (s : State) (es : List Event), s.Inv → s.nvm.neverReady = false → s.events = .tick :: es →
    s.fault = none → s.sup = .idle → s.sr.exitRequested = false → s.sr.deleteFlashRequested = true →
    step s = andThen (eraseAll { s with events := es }) (fun u => .next (handoff u.cfg.tplEntry u)) ∧
    ∃ t, step s = .next t ∧ t.sup = .terminal ∧ t.handoffTarget = some s.cfg.tplEntry ∧
      EraseEndState s.cfg s.nvm.flash t.nvm.flash

/-- R208: an Idle tick with a full buffer and no flag set commits it to the page address, which advances by one
page mod 2^16, and clears the index; the flags stay (decision D27 where the commit was discarded). -/
def Obligations.FullPageCommits : Prop :=
  ∀ (s : State) (es : List Event), s.Inv → s.nvm.neverReady = false → s.events = .tick :: es →
    s.fault = none → s.sup = .idle → s.sr.exitRequested = false → s.sr.deleteFlashRequested = false →
    s.pageIndex = s.cfg.pageSize →
    ∃ t u, commitPage s.flashPageAddress { s with events := es } = .next u ∧
      step s = .next t ∧
      t = { u with flashPageAddress := t.flashPageAddress, pageIndex := 0 } ∧
      t.flashPageAddress.toNat = (s.flashPageAddress.toNat + s.cfg.pageSize) % 65536 ∧
      t.sr = s.sr ∧ t.sup = .idle ∧ t.reply = s.reply ∧ t.exitCountdown = s.exitCountdown ∧
      t.indicator = s.indicator

/-- R213: an Idle tick that matches no branch changes nothing. -/
def Obligations.IdleTickWithoutWork : Prop :=
  ∀ (s : State) (es : List Event), s.cfg.Valid → s.events = .tick :: es → s.fault = none → s.sup = .idle →
    s.sr.exitRequested = false → s.sr.deleteFlashRequested = false → s.pageIndex ≠ s.cfg.pageSize →
    step s = .next { s with events := es }

/-! ### The whole machine -/

/-- Every step keeps the invariant. -/
def Obligations.StepKeepsInvariant : Prop :=
  ∀ s t : State, s.Inv → step s = .next t → t.Inv

/-- R64: no step changes a byte at or above BOOT_START, and no step issues an erase or a write for a page there;
a commit at such an address is a no-op, which issues no primitive, a fill included, and succeeds. -/
def Obligations.BootloaderRegionNeverChanges : Prop :=
  (∀ s t : State, s.Inv → step s = .next t →
    (∀ a, s.cfg.bootStart ≤ a → Memory.read t.nvm.flash a = Memory.read s.nvm.flash a) ∧
    ∃ os, t.outputs = s.outputs ++ os ∧
      ∀ a, .nvmErase a ∈ os ∨ .nvmWrite a ∈ os →
        a % s.cfg.pageSize = 0 ∧ a + s.cfg.pageSize ≤ s.cfg.bootStart) ∧
  (∀ (s : State) (pa : Word), s.cfg.Valid → s.cfg.bootStart ≤ (pageBase s.cfg pa).toNat →
    commitPage pa s = .next s)

/-- R261: once word 0 holds the boot vector, it holds it after every step, so a hardware reset always enters the
bootloader: the CPU at word 0 goes to word S. That the vector stands at first is the boot requirement of R262; that no
reset or power loss comes inside a commit is decision D35 and log 16, so always means between steps; where the jump at
word 0 goes is R89's formula (decision D7; log 19, PRESUMED). -/
def Obligations.ResetAlwaysEntersBootloader : Prop :=
  ∀ s t : State, s.Inv → s.BootVectorPlaced → step s = .next t →
    t.BootVectorPlaced ∧ t.jumpChain 1 0 = some t.cfg.wordS

/-- R28 and R21: no step but a Reset clears an init flag, DeleteFlashRequested or ExitRequested, or sets
ApplicationReady; so Idle goes back to Uninitialized by Reset alone. -/
def Obligations.FlagsAreSticky : Prop :=
  ∀ (s t : State) (e : Event) (es : List Event), s.events = e :: es → e ≠ .reset → step s = .next t →
    (s.sr.initStep1 = true → t.sr.initStep1 = true) ∧
    (s.sr.initStep2 = true → t.sr.initStep2 = true) ∧
    (s.sr.deleteFlashRequested = true → t.sr.deleteFlashRequested = true) ∧
    (s.sr.exitRequested = true → t.sr.exitRequested = true) ∧
    (s.sr.applicationReady = false → t.sr.applicationReady = false) ∧
    (s.sup = .idle → t.sup ≠ .uninitialized)

/-- Who writes each flag (R22-R26, R118), over every event but Reset. InitStep1, InitStep2 and ExitRequested are set by
InitDevice, GetVersion and RequestExit, DeleteFlashRequested by DeleteApplication or by a chunk that fits and whose
checksum is wrong, and each only to 1; ApplicationReady is cleared by such a chunk and by nothing else. That a Terminal
or faulted block takes no command is R110 (decisions D28 and D16), and that a chunk past the end of the page writes no
flag is R121 (decision D16); log 20. -/
def Obligations.OnlyOwnCommandsSetFlags : Prop :=
  ∀ (s t : State) (e : Event) (es : List Event), s.events = e :: es → e ≠ .reset → step s = .next t →
    (t.sr.initStep1 = true ↔ s.sr.initStep1 = true ∨
      (s.halted = false ∧ ∃ q, e = .receive q ∧ decode s.cfg q = .initdev)) ∧
    (t.sr.initStep2 = true ↔ s.sr.initStep2 = true ∨
      (s.halted = false ∧ ∃ q, e = .receive q ∧ decode s.cfg q = .getver)) ∧
    (t.sr.deleteFlashRequested = true ↔ s.sr.deleteFlashRequested = true ∨
      (s.halted = false ∧ ∃ q, e = .receive q ∧ (decode s.cfg q = .delapp ∨ ∃ d k,
        decode s.cfg q = .write d k ∧ s.pageIndex + s.cfg.chunkN ≤ s.cfg.pageSize ∧ sum8 d ≠ k))) ∧
    (t.sr.applicationReady = false ↔ s.sr.applicationReady = false ∨
      (s.halted = false ∧ ∃ q, e = .receive q ∧ ∃ d k,
        decode s.cfg q = .write d k ∧ s.pageIndex + s.cfg.chunkN ≤ s.cfg.pageSize ∧ sum8 d ≠ k)) ∧
    (t.sr.exitRequested = true ↔ s.sr.exitRequested = true ∨
      (s.halted = false ∧ ∃ q, e = .receive q ∧ decode s.cfg q = .exit))

/-- R52 and R242: Flash and the controller's staging buffer change by an Idle tick alone: by no frame, Request or
Reset, and by no tick outside Idle. That a Reset keeps the staging buffer, to which the spec gives no reset value, is
log 9 (DESIGN CHOICE). -/
def Obligations.OnlyIdleTicksChangeFlash : Prop :=
  ∀ (s t : State) (e : Event) (es : List Event), s.events = e :: es → step s = .next t →
    ¬ (e = .tick ∧ s.sup = .idle ∧ s.fault = none) → t.nvm.flash = s.nvm.flash ∧ t.nvm.stage = s.nvm.stage

/-- R33, R210, R236: only Reset leaves Terminal and only Reset ends a fault; and only a chunk that overflows the
page raises one (decision D16; the fault is the block's own element, log 12). -/
def Obligations.TerminalAndFaultEndByResetAlone : Prop :=
  ∀ (s t : State) (e : Event) (es : List Event), s.events = e :: es → e ≠ .reset → step s = .next t →
    (s.terminal = true → t.terminal = true ∧ t.handoffTarget = s.handoffTarget) ∧
    (s.fault ≠ none → t.fault = s.fault) ∧
    (s.fault = none → t.fault ≠ none → s.terminal = false ∧ s.cfg.pageSize < s.pageIndex + s.cfg.chunkN ∧
      ∃ q d k, e = .receive q ∧ decode s.cfg q = .write d k)

/-- No step changes the configuration: it is a parameter (R20), which the model carries in State (log 1). -/
def Obligations.ConfigurationNeverChanges : Prop :=
  ∀ s t : State, step s = .next t → t.cfg = s.cfg

/-- R50, R65: the block never reads Flash. With other contents of Flash a step does the same to every element, to
the outputs and to the controller's staging buffer. -/
def Obligations.BlockNeverReadsFlash : Prop :=
  ∀ (s : State) (m : Memory),
    (∀ t, step s = .next t → ∃ m', step { s with nvm := { s.nvm with flash := m } } =
      .next { t with nvm := { t.nvm with flash := m' } }) ∧
    (∀ r, step s = .fault r → step { s with nvm := { s.nvm with flash := m } } = .fault r) ∧
    (∀ r, step s = .refused r → step { s with nvm := { s.nvm with flash := m } } = .refused r)

/-- R118, R206, R207: a chunk with a wrong checksum in Idle and a tick right after it, and the application is erased and
control is handed off to the erased state, which leads into the bootloader where the erased byte is the default
0xFF (decision D6, log 21; the jumps are R89's formula, decision D7, log 19, PRESUMED). Of a Reset before the tick
(R269) or a mismatch before the handshake (R202) it says nothing. -/
def Obligations.ChecksumMismatchThenTickErases : Prop :=
  ∀ (s : State) (d : List Byte) (k : Byte) (es : List Event), s.Inv → s.nvm.neverReady = false →
    s.fault = none → s.sup = .idle → d.length = s.cfg.chunkN → s.pageIndex ≠ s.cfg.pageSize → sum8 d ≠ k →
    s.events = .receive (encode s.cfg (.write d k)) :: .tick :: es →
    s.Claims 2 (fun t => t.sup = .terminal ∧ EraseEndState s.cfg s.nvm.flash t.nvm.flash ∧
      (s.cfg.erased = 0xFF → t.jumpChain 2 (s.cfg.wordS - 1) = some s.cfg.wordS))

/-- R93's UPLOAD of one application page other than page 0 and the trampoline page, end to end: the page holds the
image, no other byte of Flash changes, the address advances by one page and the index is 0; no state on the way is
faulted (R236). -/
def Obligations.UploadProgramsThePage : Prop :=
  ∀ (s : State) (a : Word) (img : List Byte), s.Inv → s.nvm.neverReady = false → s.fault = none →
    s.sup = .idle → s.sr.exitRequested = false → s.sr.deleteFlashRequested = false → s.pageIndex = 0 →
    a.toNat % s.cfg.pageSize = 0 → a ≠ 0 → a.toNat < s.cfg.tplPage → img.length = s.cfg.pageSize →
    s.events = Script.upload s.cfg a img →
    s.Claims (Script.upload s.cfg a img).length (fun t =>
      PageHolds s.cfg a.toNat img s.nvm.flash t.nvm.flash ∧
      t.flashPageAddress.toNat = a.toNat + s.cfg.pageSize ∧ t.pageIndex = 0 ∧ t.events = [] ∧
      t.sr = s.sr ∧ t.sup = .idle)
end

