-- ==== Sys2Proof/Laws/Config.lean ====
section
/-! SUPPORT. The constraints of 00_scope.md R8 by name, and the page arithmetic they give. -/

namespace Sys2Proof

variable {c : Config}

namespace Config.Valid

theorem pageSize_mem (h : c.Valid) : c.pageSize ∈ [4, 8, 16, 32, 64, 128, 256] := h.1
theorem flashSize_le (h : c.Valid) : c.flashSize ≤ 8192 := h.2.1.2
theorem bootStart_mod (h : c.Valid) : c.bootStart % c.pageSize = 0 := h.2.2.1.1
theorem two_pages_le (h : c.Valid) : 2 * c.pageSize ≤ c.bootStart := h.2.2.1.2.1
theorem bootStart_lt (h : c.Valid) : c.bootStart < c.flashSize := h.2.2.1.2.2
theorem chunkN_pos (h : c.Valid) : 1 ≤ c.chunkN := h.2.2.2.1.1
theorem chunkN_le (h : c.Valid) : c.chunkN ≤ 8 := h.2.2.2.1.2.1
theorem pageSize_mod_chunkN (h : c.Valid) : c.pageSize % c.chunkN = 0 := h.2.2.2.1.2.2
theorem readMax_le (h : c.Valid) : c.readMax ≤ c.pageSize := h.2.2.2.2.1.2
theorem exitCount_pos (h : c.Valid) : 1 ≤ c.exitCount := h.2.2.2.2.2.1.1
theorem exitCount_le (h : c.Valid) : c.exitCount ≤ 255 := h.2.2.2.2.2.1.2
theorem opcodes_nodup (h : c.Valid) : c.opcodes.Nodup := h.2.2.2.2.2.2

/-- A page size is one of seven powers of two. -/
theorem pageSize_cases (h : c.Valid) : c.pageSize = 4 ∨ c.pageSize = 8 ∨ c.pageSize = 16 ∨
    c.pageSize = 32 ∨ c.pageSize = 64 ∨ c.pageSize = 128 ∨ c.pageSize = 256 := by
  simpa using h.pageSize_mem

theorem pageSize_ge (h : c.Valid) : 4 ≤ c.pageSize := by
  rcases h.pageSize_cases with e | e | e | e | e | e | e <;> omega

theorem pageSize_le (h : c.Valid) : c.pageSize ≤ 256 := by
  rcases h.pageSize_cases with e | e | e | e | e | e | e <;> omega

theorem pageSize_even (h : c.Valid) : 2 * (c.pageSize / 2) = c.pageSize := by
  rcases h.pageSize_cases with e | e | e | e | e | e | e <;> omega

theorem bootStart_le (h : c.Valid) : c.bootStart < 8192 := by
  have := h.bootStart_lt; have := h.flashSize_le; omega

theorem tplPage_mod (h : c.Valid) : c.tplPage % c.pageSize = 0 := by
  have h1 := h.bootStart_mod
  have h2 := h.two_pages_le
  unfold Config.tplPage
  rcases h.pageSize_cases with e | e | e | e | e | e | e <;> rw [e] at h1 h2 ⊢ <;> omega

theorem tplPage_add (h : c.Valid) : c.tplPage + c.pageSize = c.bootStart := by
  have h2 := h.two_pages_le
  unfold Config.tplPage; omega

theorem pageSize_le_tplPage (h : c.Valid) : c.pageSize ≤ c.tplPage := by
  have h2 := h.two_pages_le
  unfold Config.tplPage; omega

/-- A page that starts below a page boundary ends at or below it. -/
theorem page_le_of_lt (h : c.Valid) {a b : Nat} (ha : a % c.pageSize = 0) (hb : b % c.pageSize = 0)
    (hab : a < b) : a + c.pageSize ≤ b := by
  rcases h.pageSize_cases with e | e | e | e | e | e | e <;> rw [e] at ha hb ⊢ <;> omega

end Config.Valid

end Sys2Proof
end

