-- ==== Sys2Proof/Laws/Bits.lean ====
section
/-! SUPPORT. The byte and word functions: splitting and joining a word, the 8-bit sum, the page base. -/

namespace Sys2Proof.Machine

@[simp] theorem joinWord_lo_hi (w : Word) : joinWord (lo8 w) (hi8 w) = w := by
  unfold joinWord lo8 hi8
  apply BitVec.eq_of_getLsbD_eq
  intro i hi
  rw [BitVec.getLsbD_append]
  by_cases h : i < 8
  · simp [h]
  · have h1 : 8 + (i - 8) = i := by omega
    have h2 : i - 8 < 8 := by omega
    simp [h, h1, h2]

@[simp] theorem lo8_joinWord (lo hi : Byte) : lo8 (joinWord lo hi) = lo := by
  unfold joinWord lo8
  apply BitVec.eq_of_getLsbD_eq
  intro i hi
  rw [BitVec.getLsbD_extractLsb', BitVec.getLsbD_append]
  simp [hi]

@[simp] theorem hi8_joinWord (lo hi : Byte) : hi8 (joinWord lo hi) = hi := by
  unfold joinWord hi8
  apply BitVec.eq_of_getLsbD_eq
  intro i hi
  rw [BitVec.getLsbD_extractLsb', BitVec.getLsbD_append]
  simp [hi]

@[simp] theorem joinWord_wordBytes (w : Word) : joinWord (wordBytes w).lo (wordBytes w).hi = w :=
  joinWord_lo_hi w

@[simp] theorem joinWord_toNat (lo hi : Byte) : (joinWord lo hi).toNat = hi.toNat * 256 + lo.toNat := by
  have h : (joinWord lo hi).toNat = hi.toNat <<< 8 ||| lo.toNat := BitVec.toNat_append ..
  rw [h, ← Nat.shiftLeft_add_eq_or_of_lt lo.isLt, Nat.shiftLeft_eq]

theorem sum8_append (xs ys : List Byte) : sum8 (xs ++ ys) = sum8 xs + sum8 ys := by
  induction xs with
  | nil => simp [sum8]
  | cons b bs ih => simp [sum8, ih, BitVec.add_assoc]

/-- `x & ~(2^k - 1)` clears the low `k` bits: the largest multiple of 2^k at or below x. -/
theorem and_not_mask (a : Word) (k : Nat) (hk : k < 16) :
    (a &&& ~~~(BitVec.ofNat 16 (2 ^ k) - 1)).toNat = a.toNat / 2 ^ k * 2 ^ k := by
  have hmask : (BitVec.ofNat 16 (2 ^ k) - 1 : Word).toNat = 2 ^ k - 1 := by
    have h1 : 2 ^ k < 2 ^ 16 := Nat.pow_lt_pow_right (by omega) hk
    have h2 : 0 < 2 ^ k := Nat.two_pow_pos k
    have h3 : (1 : Word).toNat = 1 := rfl
    have h4 : (BitVec.ofNat 16 (2 ^ k)).toNat = 2 ^ k := by
      rw [BitVec.toNat_ofNat]; exact Nat.mod_eq_of_lt h1
    rw [BitVec.toNat_sub, h3, h4]
    omega
  have e : a &&& ~~~(BitVec.ofNat 16 (2 ^ k) - 1) = (a >>> k) <<< k := by
    apply BitVec.eq_of_getLsbD_eq
    intro i hi
    have hm : (BitVec.ofNat 16 (2 ^ k) - 1 : Word).getLsbD i = decide (i < k) := by
      rw [BitVec.getLsbD, hmask, Nat.testBit_two_pow_sub_one]
    simp only [BitVec.getLsbD_and, BitVec.getLsbD_not, hm, BitVec.getLsbD_shiftLeft,
      BitVec.getLsbD_ushiftRight, hi]
    by_cases h : i < k
    · simp [h]
    · simp [h, show k + (i - k) = i by omega]
  rw [e, BitVec.toNat_shiftLeft, BitVec.toNat_ushiftRight, Nat.shiftRight_eq_div_pow, Nat.shiftLeft_eq]
  apply Nat.mod_eq_of_lt
  calc a.toNat / 2 ^ k * 2 ^ k ≤ a.toNat := Nat.div_mul_le_self ..
    _ < 2 ^ 16 := a.isLt

variable {c : Config}

/-- R53: the page base is the largest multiple of the page size at or below the address. -/
theorem pageBase_toNat (h : c.Valid) (a : Word) :
    (pageBase c a).toNat = a.toNat / c.pageSize * c.pageSize := by
  unfold pageBase
  rcases h.pageSize_cases with e | e | e | e | e | e | e <;> rw [e]
  · exact and_not_mask a 2 (by omega)
  · exact and_not_mask a 3 (by omega)
  · exact and_not_mask a 4 (by omega)
  · exact and_not_mask a 5 (by omega)
  · exact and_not_mask a 6 (by omega)
  · exact and_not_mask a 7 (by omega)
  · exact and_not_mask a 8 (by omega)

theorem pageBase_mod (h : c.Valid) (a : Word) : (pageBase c a).toNat % c.pageSize = 0 := by
  rw [pageBase_toNat h]; exact Nat.mul_mod_left ..

/-- R53: an aligned address is its own page base. -/
theorem pageBase_of_aligned (h : c.Valid) {a : Word} (ha : a.toNat % c.pageSize = 0) :
    pageBase c a = a := by
  apply BitVec.eq_of_toNat_eq
  rw [pageBase_toNat h]
  exact Nat.div_mul_cancel (Nat.dvd_of_mod_eq_zero ha)

theorem pageBase_idem (h : c.Valid) (a : Word) : pageBase c (pageBase c a) = pageBase c a :=
  pageBase_of_aligned h (pageBase_mod h a)

@[simp] theorem pageBase_zero : pageBase c 0 = 0 := by simp [pageBase]

end Sys2Proof.Machine
end

