-- ==== Sys2Proof/Laws/Memory.lean ====
section
/-! SUPPORT. Program memory: what a read gives after a write, and that every write keeps the canonical
form. -/

namespace Sys2Proof.Machine

@[simp] theorem cellsAt_length (a : Nat) (bs : List Byte) : (cellsAt a bs).length = bs.length := by
  induction bs generalizing a with
  | nil => rfl
  | cons b bs ih => simp [cellsAt, ih]

theorem cellsAt_append (a : Nat) (bs cs : List Byte) :
    cellsAt a (bs ++ cs) = cellsAt a bs ++ cellsAt (a + bs.length) cs := by
  induction bs generalizing a with
  | nil => simp [cellsAt]
  | cons b bs ih => simp [cellsAt, ih, Nat.add_assoc, Nat.add_comm 1]

theorem mem_cellsAt {a : Nat} {bs : List Byte} {x : Host.Cell} (h : x ∈ cellsAt a bs) :
    a ≤ x.1 ∧ x.1 < a + bs.length := by
  induction bs generalizing a with
  | nil => simp [cellsAt] at h
  | cons b bs ih =>
    simp only [cellsAt, List.mem_cons] at h
    rcases h with rfl | h
    · simp
    · have := ih h; simp only [List.length_cons]; omega

theorem read_append (m n : Memory) (a : Nat) :
    Memory.read (m ++ n) a = (Memory.read m a).or (Memory.read n a) := by
  induction m with
  | nil => simp [Memory.read]
  | cons c m ih =>
    simp only [List.cons_append, Memory.read]
    split <;> simp [ih]

theorem read_filter (m : Memory) (p : Nat → Bool) (a : Nat) :
    Memory.read (m.filter (fun c => p c.1)) a = if p a then Memory.read m a else none := by
  induction m with
  | nil => simp [Memory.read]
  | cons c m ih =>
    by_cases hc : p c.1 <;> by_cases ha : c.1 = a
    · subst ha; simp [hc, Memory.read]
    · simp [hc, Memory.read, ha, ih]
    · subst ha; simp [hc, ih]
    · simp [hc, Memory.read, ha, ih]

theorem read_cellsAt (a : Nat) (bs : List Byte) (x : Nat) :
    Memory.read (cellsAt a bs) x = if a ≤ x then bs[x - a]? else none := by
  induction bs generalizing a with
  | nil => simp [cellsAt, Memory.read]
  | cons b bs ih =>
    simp only [cellsAt, Memory.read, ih]
    by_cases h1 : a = x
    · subst h1; simp
    · by_cases h2 : a ≤ x
      · have h3 : a + 1 ≤ x := by omega
        have h4 : x - a = (x - (a + 1)) + 1 := by omega
        simp [h1, h2, h3, h4]
      · have h3 : ¬ a + 1 ≤ x := by omega
        simp [h1, h2, h3]

/-- A read inside a written run gives the run's byte; any other read is as before. -/
theorem read_writeRange (m : Memory) (a : Nat) (bs : List Byte) (x : Nat) :
    Memory.read (Memory.writeRange m a bs) x =
      if a ≤ x ∧ x < a + bs.length then bs[x - a]? else Memory.read m x := by
  unfold Memory.writeRange
  rw [read_append, read_append, read_cellsAt,
    read_filter m (fun i => decide (i < a)), read_filter m (fun i => decide (a + bs.length ≤ i))]
  by_cases h1 : x < a
  · have h2 : ¬ a ≤ x := by omega
    have h3 : ¬ a + bs.length ≤ x := by omega
    simp [h1, h2, h3]
  · by_cases h2 : a + bs.length ≤ x
    · have h3 : bs.length ≤ x - a := by omega
      have h4 : ¬ x < a + bs.length := by omega
      simp [h1, h2, h4, List.getElem?_eq_none h3]
    · have h3 : x < a + bs.length := by omega
      have h4 : a ≤ x := by omega
      have h5 : x - a < bs.length := by omega
      simp [h1, h2, h3, h4, List.getElem?_eq_getElem h5]

theorem read_writeRange_out (m : Memory) (a : Nat) (bs : List Byte) (x : Nat)
    (h : x < a ∨ a + bs.length ≤ x) :
    Memory.read (Memory.writeRange m a bs) x = Memory.read m x := by
  rw [read_writeRange, if_neg (by omega)]

theorem read_writeRange_in (m : Memory) (a : Nat) (bs : List Byte) (j : Nat) (h : j < bs.length) :
    Memory.read (Memory.writeRange m a bs) (a + j) = bs[j]? := by
  rw [read_writeRange, if_pos (by omega), Nat.add_sub_cancel_left]

theorem cellsAt_rising (a : Nat) (bs : List Byte) : Memory.wf (cellsAt a bs) := by
  induction bs generalizing a with
  | nil => exact List.Pairwise.nil
  | cons b bs ih =>
    refine List.Pairwise.cons (fun y hy => ?_) (ih (a + 1))
    have := (mem_cellsAt hy).1
    simp only; omega

/-- Every write keeps the canonical form. -/
theorem writeRange_wf {m : Memory} (h : Memory.wf m) (a : Nat) (bs : List Byte) :
    Memory.wf (Memory.writeRange m a bs) := by
  unfold Memory.writeRange
  refine List.pairwise_append.2 ⟨List.pairwise_append.2 ⟨h.filter _, cellsAt_rising a bs, ?_⟩,
    h.filter _, ?_⟩
  · intro x hx y hy
    have h1 := (mem_cellsAt hy).1
    simp only [List.mem_filter, decide_eq_true_eq] at hx
    omega
  · intro x hx y hy
    simp only [List.mem_append, List.mem_filter, decide_eq_true_eq] at hx hy
    rcases hx with hx | hx
    · omega
    · have := mem_cellsAt hx; omega

theorem mem_writeRange {m : Memory} {a : Nat} {bs : List Byte} {x : Host.Cell}
    (h : x ∈ Memory.writeRange m a bs) : x ∈ m ∨ (a ≤ x.1 ∧ x.1 < a + bs.length) := by
  simp only [Memory.writeRange, List.mem_append, List.mem_filter] at h
  rcases h with (h | h) | h
  · exact .inl h.1
  · exact .inr (mem_cellsAt h)
  · exact .inl h.1

/-- A write over a write of the same range leaves the second alone. -/
theorem writeRange_writeRange (m : Memory) (a : Nat) (bs cs : List Byte) (h : bs.length = cs.length) :
    Memory.writeRange (Memory.writeRange m a bs) a cs = Memory.writeRange m a cs := by
  have e1 : (cellsAt a bs).filter (fun c => decide (c.1 < a)) = [] := by
    rw [List.filter_eq_nil_iff]; intro x hx; have := (mem_cellsAt hx).1; simp; omega
  have e2 : (cellsAt a bs).filter (fun c => decide (a + cs.length ≤ c.1)) = [] := by
    rw [List.filter_eq_nil_iff]; intro x hx; have := (mem_cellsAt hx).2; simp; omega
  have e3 : (m.filter (fun c => decide (a + bs.length ≤ c.1))).filter (fun c => decide (c.1 < a)) = [] := by
    rw [List.filter_eq_nil_iff]; intro x hx
    simp only [List.mem_filter, decide_eq_true_eq] at hx
    simp; omega
  have e4 : (m.filter (fun c => decide (c.1 < a))).filter
      (fun c => decide (a + cs.length ≤ c.1)) = [] := by
    rw [List.filter_eq_nil_iff]; intro x hx
    simp only [List.mem_filter, decide_eq_true_eq] at hx
    simp; omega
  simp only [Memory.writeRange, List.filter_append, e1, e2, e3, e4, List.append_nil, List.nil_append]
  simp [h]

/-- A write that starts where another ends is one write of both runs. -/
theorem writeRange_adjacent (m : Memory) (a : Nat) (bs cs : List Byte) :
    Memory.writeRange (Memory.writeRange m a bs) (a + bs.length) cs = Memory.writeRange m a (bs ++ cs) := by
  have e1 : (m.filter (fun c => decide (c.1 < a))).filter (fun c => decide (c.1 < a + bs.length)) =
      m.filter (fun c => decide (c.1 < a)) := by
    rw [List.filter_eq_self]; intro x hx
    simp only [List.mem_filter, decide_eq_true_eq] at hx
    simp; omega
  have e2 : (cellsAt a bs).filter (fun c => decide (c.1 < a + bs.length)) = cellsAt a bs := by
    rw [List.filter_eq_self]; intro x hx; have := (mem_cellsAt hx).2; simp; omega
  have e3 : (m.filter (fun c => decide (a + bs.length ≤ c.1))).filter
      (fun c => decide (c.1 < a + bs.length)) = [] := by
    rw [List.filter_eq_nil_iff]; intro x hx
    simp only [List.mem_filter, decide_eq_true_eq] at hx
    simp; omega
  have e4 : (m.filter (fun c => decide (c.1 < a))).filter
      (fun c => decide (a + bs.length + cs.length ≤ c.1)) = [] := by
    rw [List.filter_eq_nil_iff]; intro x hx
    simp only [List.mem_filter, decide_eq_true_eq] at hx
    simp; omega
  have e5 : (cellsAt a bs).filter (fun c => decide (a + bs.length + cs.length ≤ c.1)) = [] := by
    rw [List.filter_eq_nil_iff]; intro x hx; have := (mem_cellsAt hx).2; simp; omega
  have e6 : (m.filter (fun c => decide (a + bs.length ≤ c.1))).filter
      (fun c => decide (a + bs.length + cs.length ≤ c.1)) =
      m.filter (fun c => decide (a + (bs ++ cs).length ≤ c.1)) := by
    rw [List.filter_filter]
    apply List.filter_congr
    intro x _
    rw [List.length_append, ← Bool.decide_and, decide_eq_decide]; omega
  simp only [Memory.writeRange, List.filter_append, e1, e2, e3, e4, e5, e6, cellsAt_append,
    List.append_nil, List.nil_append, List.append_assoc]

end Sys2Proof.Machine
end

