-- ==== Sys2Proof/Laws/State.lean ====
section
/-! SUPPORT. One lemma per field per update of `State`: an update changes its own field and no other. -/

namespace Sys2Proof.Machine

variable (s : State)

/-! ### The update of `sr` -/
@[simp] theorem State.setSr_cfg (v : StatusRegister) : (s.setSr v).cfg = s.cfg := rfl
@[simp] theorem State.setSr_sr (v : StatusRegister) : (s.setSr v).sr = v := rfl
@[simp] theorem State.setSr_pb (v : StatusRegister) : (s.setSr v).pb = s.pb := rfl
@[simp] theorem State.setSr_pageIndex (v : StatusRegister) : (s.setSr v).pageIndex = s.pageIndex := rfl
@[simp] theorem State.setSr_flashPageAddress (v : StatusRegister) : (s.setSr v).flashPageAddress = s.flashPageAddress := rfl
@[simp] theorem State.setSr_trampolineBytes (v : StatusRegister) : (s.setSr v).trampolineBytes = s.trampolineBytes := rfl
@[simp] theorem State.setSr_terminal (v : StatusRegister) : (s.setSr v).terminal = s.terminal := rfl
@[simp] theorem State.setSr_exitCountdown (v : StatusRegister) : (s.setSr v).exitCountdown = s.exitCountdown := rfl
@[simp] theorem State.setSr_indicator (v : StatusRegister) : (s.setSr v).indicator = s.indicator := rfl
@[simp] theorem State.setSr_reply (v : StatusRegister) : (s.setSr v).reply = s.reply := rfl
@[simp] theorem State.setSr_handoffTarget (v : StatusRegister) : (s.setSr v).handoffTarget = s.handoffTarget := rfl
@[simp] theorem State.setSr_fault (v : StatusRegister) : (s.setSr v).fault = s.fault := rfl
@[simp] theorem State.setSr_nvm (v : StatusRegister) : (s.setSr v).nvm = s.nvm := rfl
@[simp] theorem State.setSr_events (v : StatusRegister) : (s.setSr v).events = s.events := rfl
@[simp] theorem State.setSr_outputs (v : StatusRegister) : (s.setSr v).outputs = s.outputs := rfl
@[simp] theorem State.setSr_draws (v : StatusRegister) : (s.setSr v).draws = s.draws := rfl

/-! ### The update of `pb` -/
@[simp] theorem State.setPb_cfg (v : List Byte) : (s.setPb v).cfg = s.cfg := rfl
@[simp] theorem State.setPb_sr (v : List Byte) : (s.setPb v).sr = s.sr := rfl
@[simp] theorem State.setPb_pb (v : List Byte) : (s.setPb v).pb = v := rfl
@[simp] theorem State.setPb_pageIndex (v : List Byte) : (s.setPb v).pageIndex = s.pageIndex := rfl
@[simp] theorem State.setPb_flashPageAddress (v : List Byte) : (s.setPb v).flashPageAddress = s.flashPageAddress := rfl
@[simp] theorem State.setPb_trampolineBytes (v : List Byte) : (s.setPb v).trampolineBytes = s.trampolineBytes := rfl
@[simp] theorem State.setPb_terminal (v : List Byte) : (s.setPb v).terminal = s.terminal := rfl
@[simp] theorem State.setPb_exitCountdown (v : List Byte) : (s.setPb v).exitCountdown = s.exitCountdown := rfl
@[simp] theorem State.setPb_indicator (v : List Byte) : (s.setPb v).indicator = s.indicator := rfl
@[simp] theorem State.setPb_reply (v : List Byte) : (s.setPb v).reply = s.reply := rfl
@[simp] theorem State.setPb_handoffTarget (v : List Byte) : (s.setPb v).handoffTarget = s.handoffTarget := rfl
@[simp] theorem State.setPb_fault (v : List Byte) : (s.setPb v).fault = s.fault := rfl
@[simp] theorem State.setPb_nvm (v : List Byte) : (s.setPb v).nvm = s.nvm := rfl
@[simp] theorem State.setPb_events (v : List Byte) : (s.setPb v).events = s.events := rfl
@[simp] theorem State.setPb_outputs (v : List Byte) : (s.setPb v).outputs = s.outputs := rfl
@[simp] theorem State.setPb_draws (v : List Byte) : (s.setPb v).draws = s.draws := rfl

/-! ### The update of `pageIndex` -/
@[simp] theorem State.setPageIndex_cfg (v : Nat) : (s.setPageIndex v).cfg = s.cfg := rfl
@[simp] theorem State.setPageIndex_sr (v : Nat) : (s.setPageIndex v).sr = s.sr := rfl
@[simp] theorem State.setPageIndex_pb (v : Nat) : (s.setPageIndex v).pb = s.pb := rfl
@[simp] theorem State.setPageIndex_pageIndex (v : Nat) : (s.setPageIndex v).pageIndex = v := rfl
@[simp] theorem State.setPageIndex_flashPageAddress (v : Nat) : (s.setPageIndex v).flashPageAddress = s.flashPageAddress := rfl
@[simp] theorem State.setPageIndex_trampolineBytes (v : Nat) : (s.setPageIndex v).trampolineBytes = s.trampolineBytes := rfl
@[simp] theorem State.setPageIndex_terminal (v : Nat) : (s.setPageIndex v).terminal = s.terminal := rfl
@[simp] theorem State.setPageIndex_exitCountdown (v : Nat) : (s.setPageIndex v).exitCountdown = s.exitCountdown := rfl
@[simp] theorem State.setPageIndex_indicator (v : Nat) : (s.setPageIndex v).indicator = s.indicator := rfl
@[simp] theorem State.setPageIndex_reply (v : Nat) : (s.setPageIndex v).reply = s.reply := rfl
@[simp] theorem State.setPageIndex_handoffTarget (v : Nat) : (s.setPageIndex v).handoffTarget = s.handoffTarget := rfl
@[simp] theorem State.setPageIndex_fault (v : Nat) : (s.setPageIndex v).fault = s.fault := rfl
@[simp] theorem State.setPageIndex_nvm (v : Nat) : (s.setPageIndex v).nvm = s.nvm := rfl
@[simp] theorem State.setPageIndex_events (v : Nat) : (s.setPageIndex v).events = s.events := rfl
@[simp] theorem State.setPageIndex_outputs (v : Nat) : (s.setPageIndex v).outputs = s.outputs := rfl
@[simp] theorem State.setPageIndex_draws (v : Nat) : (s.setPageIndex v).draws = s.draws := rfl

/-! ### The update of `flashPageAddress` -/
@[simp] theorem State.setFlashPageAddress_cfg (v : Word) : (s.setFlashPageAddress v).cfg = s.cfg := rfl
@[simp] theorem State.setFlashPageAddress_sr (v : Word) : (s.setFlashPageAddress v).sr = s.sr := rfl
@[simp] theorem State.setFlashPageAddress_pb (v : Word) : (s.setFlashPageAddress v).pb = s.pb := rfl
@[simp] theorem State.setFlashPageAddress_pageIndex (v : Word) : (s.setFlashPageAddress v).pageIndex = s.pageIndex := rfl
@[simp] theorem State.setFlashPageAddress_flashPageAddress (v : Word) : (s.setFlashPageAddress v).flashPageAddress = v := rfl
@[simp] theorem State.setFlashPageAddress_trampolineBytes (v : Word) : (s.setFlashPageAddress v).trampolineBytes = s.trampolineBytes := rfl
@[simp] theorem State.setFlashPageAddress_terminal (v : Word) : (s.setFlashPageAddress v).terminal = s.terminal := rfl
@[simp] theorem State.setFlashPageAddress_exitCountdown (v : Word) : (s.setFlashPageAddress v).exitCountdown = s.exitCountdown := rfl
@[simp] theorem State.setFlashPageAddress_indicator (v : Word) : (s.setFlashPageAddress v).indicator = s.indicator := rfl
@[simp] theorem State.setFlashPageAddress_reply (v : Word) : (s.setFlashPageAddress v).reply = s.reply := rfl
@[simp] theorem State.setFlashPageAddress_handoffTarget (v : Word) : (s.setFlashPageAddress v).handoffTarget = s.handoffTarget := rfl
@[simp] theorem State.setFlashPageAddress_fault (v : Word) : (s.setFlashPageAddress v).fault = s.fault := rfl
@[simp] theorem State.setFlashPageAddress_nvm (v : Word) : (s.setFlashPageAddress v).nvm = s.nvm := rfl
@[simp] theorem State.setFlashPageAddress_events (v : Word) : (s.setFlashPageAddress v).events = s.events := rfl
@[simp] theorem State.setFlashPageAddress_outputs (v : Word) : (s.setFlashPageAddress v).outputs = s.outputs := rfl
@[simp] theorem State.setFlashPageAddress_draws (v : Word) : (s.setFlashPageAddress v).draws = s.draws := rfl

/-! ### The update of `trampolineBytes` -/
@[simp] theorem State.setTrampolineBytes_cfg (v : BytePair) : (s.setTrampolineBytes v).cfg = s.cfg := rfl
@[simp] theorem State.setTrampolineBytes_sr (v : BytePair) : (s.setTrampolineBytes v).sr = s.sr := rfl
@[simp] theorem State.setTrampolineBytes_pb (v : BytePair) : (s.setTrampolineBytes v).pb = s.pb := rfl
@[simp] theorem State.setTrampolineBytes_pageIndex (v : BytePair) : (s.setTrampolineBytes v).pageIndex = s.pageIndex := rfl
@[simp] theorem State.setTrampolineBytes_flashPageAddress (v : BytePair) : (s.setTrampolineBytes v).flashPageAddress = s.flashPageAddress := rfl
@[simp] theorem State.setTrampolineBytes_trampolineBytes (v : BytePair) : (s.setTrampolineBytes v).trampolineBytes = v := rfl
@[simp] theorem State.setTrampolineBytes_terminal (v : BytePair) : (s.setTrampolineBytes v).terminal = s.terminal := rfl
@[simp] theorem State.setTrampolineBytes_exitCountdown (v : BytePair) : (s.setTrampolineBytes v).exitCountdown = s.exitCountdown := rfl
@[simp] theorem State.setTrampolineBytes_indicator (v : BytePair) : (s.setTrampolineBytes v).indicator = s.indicator := rfl
@[simp] theorem State.setTrampolineBytes_reply (v : BytePair) : (s.setTrampolineBytes v).reply = s.reply := rfl
@[simp] theorem State.setTrampolineBytes_handoffTarget (v : BytePair) : (s.setTrampolineBytes v).handoffTarget = s.handoffTarget := rfl
@[simp] theorem State.setTrampolineBytes_fault (v : BytePair) : (s.setTrampolineBytes v).fault = s.fault := rfl
@[simp] theorem State.setTrampolineBytes_nvm (v : BytePair) : (s.setTrampolineBytes v).nvm = s.nvm := rfl
@[simp] theorem State.setTrampolineBytes_events (v : BytePair) : (s.setTrampolineBytes v).events = s.events := rfl
@[simp] theorem State.setTrampolineBytes_outputs (v : BytePair) : (s.setTrampolineBytes v).outputs = s.outputs := rfl
@[simp] theorem State.setTrampolineBytes_draws (v : BytePair) : (s.setTrampolineBytes v).draws = s.draws := rfl

/-! ### The update of `terminal` -/
@[simp] theorem State.setTerminal_cfg (v : Bool) : (s.setTerminal v).cfg = s.cfg := rfl
@[simp] theorem State.setTerminal_sr (v : Bool) : (s.setTerminal v).sr = s.sr := rfl
@[simp] theorem State.setTerminal_pb (v : Bool) : (s.setTerminal v).pb = s.pb := rfl
@[simp] theorem State.setTerminal_pageIndex (v : Bool) : (s.setTerminal v).pageIndex = s.pageIndex := rfl
@[simp] theorem State.setTerminal_flashPageAddress (v : Bool) : (s.setTerminal v).flashPageAddress = s.flashPageAddress := rfl
@[simp] theorem State.setTerminal_trampolineBytes (v : Bool) : (s.setTerminal v).trampolineBytes = s.trampolineBytes := rfl
@[simp] theorem State.setTerminal_terminal (v : Bool) : (s.setTerminal v).terminal = v := rfl
@[simp] theorem State.setTerminal_exitCountdown (v : Bool) : (s.setTerminal v).exitCountdown = s.exitCountdown := rfl
@[simp] theorem State.setTerminal_indicator (v : Bool) : (s.setTerminal v).indicator = s.indicator := rfl
@[simp] theorem State.setTerminal_reply (v : Bool) : (s.setTerminal v).reply = s.reply := rfl
@[simp] theorem State.setTerminal_handoffTarget (v : Bool) : (s.setTerminal v).handoffTarget = s.handoffTarget := rfl
@[simp] theorem State.setTerminal_fault (v : Bool) : (s.setTerminal v).fault = s.fault := rfl
@[simp] theorem State.setTerminal_nvm (v : Bool) : (s.setTerminal v).nvm = s.nvm := rfl
@[simp] theorem State.setTerminal_events (v : Bool) : (s.setTerminal v).events = s.events := rfl
@[simp] theorem State.setTerminal_outputs (v : Bool) : (s.setTerminal v).outputs = s.outputs := rfl
@[simp] theorem State.setTerminal_draws (v : Bool) : (s.setTerminal v).draws = s.draws := rfl

/-! ### The update of `exitCountdown` -/
@[simp] theorem State.setExitCountdown_cfg (v : Byte) : (s.setExitCountdown v).cfg = s.cfg := rfl
@[simp] theorem State.setExitCountdown_sr (v : Byte) : (s.setExitCountdown v).sr = s.sr := rfl
@[simp] theorem State.setExitCountdown_pb (v : Byte) : (s.setExitCountdown v).pb = s.pb := rfl
@[simp] theorem State.setExitCountdown_pageIndex (v : Byte) : (s.setExitCountdown v).pageIndex = s.pageIndex := rfl
@[simp] theorem State.setExitCountdown_flashPageAddress (v : Byte) : (s.setExitCountdown v).flashPageAddress = s.flashPageAddress := rfl
@[simp] theorem State.setExitCountdown_trampolineBytes (v : Byte) : (s.setExitCountdown v).trampolineBytes = s.trampolineBytes := rfl
@[simp] theorem State.setExitCountdown_terminal (v : Byte) : (s.setExitCountdown v).terminal = s.terminal := rfl
@[simp] theorem State.setExitCountdown_exitCountdown (v : Byte) : (s.setExitCountdown v).exitCountdown = v := rfl
@[simp] theorem State.setExitCountdown_indicator (v : Byte) : (s.setExitCountdown v).indicator = s.indicator := rfl
@[simp] theorem State.setExitCountdown_reply (v : Byte) : (s.setExitCountdown v).reply = s.reply := rfl
@[simp] theorem State.setExitCountdown_handoffTarget (v : Byte) : (s.setExitCountdown v).handoffTarget = s.handoffTarget := rfl
@[simp] theorem State.setExitCountdown_fault (v : Byte) : (s.setExitCountdown v).fault = s.fault := rfl
@[simp] theorem State.setExitCountdown_nvm (v : Byte) : (s.setExitCountdown v).nvm = s.nvm := rfl
@[simp] theorem State.setExitCountdown_events (v : Byte) : (s.setExitCountdown v).events = s.events := rfl
@[simp] theorem State.setExitCountdown_outputs (v : Byte) : (s.setExitCountdown v).outputs = s.outputs := rfl
@[simp] theorem State.setExitCountdown_draws (v : Byte) : (s.setExitCountdown v).draws = s.draws := rfl

/-! ### The update of `indicator` -/
@[simp] theorem State.setIndicator_cfg (v : Bool) : (s.setIndicator v).cfg = s.cfg := rfl
@[simp] theorem State.setIndicator_sr (v : Bool) : (s.setIndicator v).sr = s.sr := rfl
@[simp] theorem State.setIndicator_pb (v : Bool) : (s.setIndicator v).pb = s.pb := rfl
@[simp] theorem State.setIndicator_pageIndex (v : Bool) : (s.setIndicator v).pageIndex = s.pageIndex := rfl
@[simp] theorem State.setIndicator_flashPageAddress (v : Bool) : (s.setIndicator v).flashPageAddress = s.flashPageAddress := rfl
@[simp] theorem State.setIndicator_trampolineBytes (v : Bool) : (s.setIndicator v).trampolineBytes = s.trampolineBytes := rfl
@[simp] theorem State.setIndicator_terminal (v : Bool) : (s.setIndicator v).terminal = s.terminal := rfl
@[simp] theorem State.setIndicator_exitCountdown (v : Bool) : (s.setIndicator v).exitCountdown = s.exitCountdown := rfl
@[simp] theorem State.setIndicator_indicator (v : Bool) : (s.setIndicator v).indicator = v := rfl
@[simp] theorem State.setIndicator_reply (v : Bool) : (s.setIndicator v).reply = s.reply := rfl
@[simp] theorem State.setIndicator_handoffTarget (v : Bool) : (s.setIndicator v).handoffTarget = s.handoffTarget := rfl
@[simp] theorem State.setIndicator_fault (v : Bool) : (s.setIndicator v).fault = s.fault := rfl
@[simp] theorem State.setIndicator_nvm (v : Bool) : (s.setIndicator v).nvm = s.nvm := rfl
@[simp] theorem State.setIndicator_events (v : Bool) : (s.setIndicator v).events = s.events := rfl
@[simp] theorem State.setIndicator_outputs (v : Bool) : (s.setIndicator v).outputs = s.outputs := rfl
@[simp] theorem State.setIndicator_draws (v : Bool) : (s.setIndicator v).draws = s.draws := rfl

/-! ### The update of `reply` -/
@[simp] theorem State.setReply_cfg (v : List Byte) : (s.setReply v).cfg = s.cfg := rfl
@[simp] theorem State.setReply_sr (v : List Byte) : (s.setReply v).sr = s.sr := rfl
@[simp] theorem State.setReply_pb (v : List Byte) : (s.setReply v).pb = s.pb := rfl
@[simp] theorem State.setReply_pageIndex (v : List Byte) : (s.setReply v).pageIndex = s.pageIndex := rfl
@[simp] theorem State.setReply_flashPageAddress (v : List Byte) : (s.setReply v).flashPageAddress = s.flashPageAddress := rfl
@[simp] theorem State.setReply_trampolineBytes (v : List Byte) : (s.setReply v).trampolineBytes = s.trampolineBytes := rfl
@[simp] theorem State.setReply_terminal (v : List Byte) : (s.setReply v).terminal = s.terminal := rfl
@[simp] theorem State.setReply_exitCountdown (v : List Byte) : (s.setReply v).exitCountdown = s.exitCountdown := rfl
@[simp] theorem State.setReply_indicator (v : List Byte) : (s.setReply v).indicator = s.indicator := rfl
@[simp] theorem State.setReply_reply (v : List Byte) : (s.setReply v).reply = v := rfl
@[simp] theorem State.setReply_handoffTarget (v : List Byte) : (s.setReply v).handoffTarget = s.handoffTarget := rfl
@[simp] theorem State.setReply_fault (v : List Byte) : (s.setReply v).fault = s.fault := rfl
@[simp] theorem State.setReply_nvm (v : List Byte) : (s.setReply v).nvm = s.nvm := rfl
@[simp] theorem State.setReply_events (v : List Byte) : (s.setReply v).events = s.events := rfl
@[simp] theorem State.setReply_outputs (v : List Byte) : (s.setReply v).outputs = s.outputs := rfl
@[simp] theorem State.setReply_draws (v : List Byte) : (s.setReply v).draws = s.draws := rfl

/-! ### The update of `handoffTarget` -/
@[simp] theorem State.setHandoffTarget_cfg (v : Option Word) : (s.setHandoffTarget v).cfg = s.cfg := rfl
@[simp] theorem State.setHandoffTarget_sr (v : Option Word) : (s.setHandoffTarget v).sr = s.sr := rfl
@[simp] theorem State.setHandoffTarget_pb (v : Option Word) : (s.setHandoffTarget v).pb = s.pb := rfl
@[simp] theorem State.setHandoffTarget_pageIndex (v : Option Word) : (s.setHandoffTarget v).pageIndex = s.pageIndex := rfl
@[simp] theorem State.setHandoffTarget_flashPageAddress (v : Option Word) : (s.setHandoffTarget v).flashPageAddress = s.flashPageAddress := rfl
@[simp] theorem State.setHandoffTarget_trampolineBytes (v : Option Word) : (s.setHandoffTarget v).trampolineBytes = s.trampolineBytes := rfl
@[simp] theorem State.setHandoffTarget_terminal (v : Option Word) : (s.setHandoffTarget v).terminal = s.terminal := rfl
@[simp] theorem State.setHandoffTarget_exitCountdown (v : Option Word) : (s.setHandoffTarget v).exitCountdown = s.exitCountdown := rfl
@[simp] theorem State.setHandoffTarget_indicator (v : Option Word) : (s.setHandoffTarget v).indicator = s.indicator := rfl
@[simp] theorem State.setHandoffTarget_reply (v : Option Word) : (s.setHandoffTarget v).reply = s.reply := rfl
@[simp] theorem State.setHandoffTarget_handoffTarget (v : Option Word) : (s.setHandoffTarget v).handoffTarget = v := rfl
@[simp] theorem State.setHandoffTarget_fault (v : Option Word) : (s.setHandoffTarget v).fault = s.fault := rfl
@[simp] theorem State.setHandoffTarget_nvm (v : Option Word) : (s.setHandoffTarget v).nvm = s.nvm := rfl
@[simp] theorem State.setHandoffTarget_events (v : Option Word) : (s.setHandoffTarget v).events = s.events := rfl
@[simp] theorem State.setHandoffTarget_outputs (v : Option Word) : (s.setHandoffTarget v).outputs = s.outputs := rfl
@[simp] theorem State.setHandoffTarget_draws (v : Option Word) : (s.setHandoffTarget v).draws = s.draws := rfl

/-! ### The update of `fault` -/
@[simp] theorem State.setFault_cfg (v : Option FaultReason) : (s.setFault v).cfg = s.cfg := rfl
@[simp] theorem State.setFault_sr (v : Option FaultReason) : (s.setFault v).sr = s.sr := rfl
@[simp] theorem State.setFault_pb (v : Option FaultReason) : (s.setFault v).pb = s.pb := rfl
@[simp] theorem State.setFault_pageIndex (v : Option FaultReason) : (s.setFault v).pageIndex = s.pageIndex := rfl
@[simp] theorem State.setFault_flashPageAddress (v : Option FaultReason) : (s.setFault v).flashPageAddress = s.flashPageAddress := rfl
@[simp] theorem State.setFault_trampolineBytes (v : Option FaultReason) : (s.setFault v).trampolineBytes = s.trampolineBytes := rfl
@[simp] theorem State.setFault_terminal (v : Option FaultReason) : (s.setFault v).terminal = s.terminal := rfl
@[simp] theorem State.setFault_exitCountdown (v : Option FaultReason) : (s.setFault v).exitCountdown = s.exitCountdown := rfl
@[simp] theorem State.setFault_indicator (v : Option FaultReason) : (s.setFault v).indicator = s.indicator := rfl
@[simp] theorem State.setFault_reply (v : Option FaultReason) : (s.setFault v).reply = s.reply := rfl
@[simp] theorem State.setFault_handoffTarget (v : Option FaultReason) : (s.setFault v).handoffTarget = s.handoffTarget := rfl
@[simp] theorem State.setFault_fault (v : Option FaultReason) : (s.setFault v).fault = v := rfl
@[simp] theorem State.setFault_nvm (v : Option FaultReason) : (s.setFault v).nvm = s.nvm := rfl
@[simp] theorem State.setFault_events (v : Option FaultReason) : (s.setFault v).events = s.events := rfl
@[simp] theorem State.setFault_outputs (v : Option FaultReason) : (s.setFault v).outputs = s.outputs := rfl
@[simp] theorem State.setFault_draws (v : Option FaultReason) : (s.setFault v).draws = s.draws := rfl

/-! ### The update of `nvm` -/
@[simp] theorem State.setNvm_cfg (v : Nvm) : (s.setNvm v).cfg = s.cfg := rfl
@[simp] theorem State.setNvm_sr (v : Nvm) : (s.setNvm v).sr = s.sr := rfl
@[simp] theorem State.setNvm_pb (v : Nvm) : (s.setNvm v).pb = s.pb := rfl
@[simp] theorem State.setNvm_pageIndex (v : Nvm) : (s.setNvm v).pageIndex = s.pageIndex := rfl
@[simp] theorem State.setNvm_flashPageAddress (v : Nvm) : (s.setNvm v).flashPageAddress = s.flashPageAddress := rfl
@[simp] theorem State.setNvm_trampolineBytes (v : Nvm) : (s.setNvm v).trampolineBytes = s.trampolineBytes := rfl
@[simp] theorem State.setNvm_terminal (v : Nvm) : (s.setNvm v).terminal = s.terminal := rfl
@[simp] theorem State.setNvm_exitCountdown (v : Nvm) : (s.setNvm v).exitCountdown = s.exitCountdown := rfl
@[simp] theorem State.setNvm_indicator (v : Nvm) : (s.setNvm v).indicator = s.indicator := rfl
@[simp] theorem State.setNvm_reply (v : Nvm) : (s.setNvm v).reply = s.reply := rfl
@[simp] theorem State.setNvm_handoffTarget (v : Nvm) : (s.setNvm v).handoffTarget = s.handoffTarget := rfl
@[simp] theorem State.setNvm_fault (v : Nvm) : (s.setNvm v).fault = s.fault := rfl
@[simp] theorem State.setNvm_nvm (v : Nvm) : (s.setNvm v).nvm = v := rfl
@[simp] theorem State.setNvm_events (v : Nvm) : (s.setNvm v).events = s.events := rfl
@[simp] theorem State.setNvm_outputs (v : Nvm) : (s.setNvm v).outputs = s.outputs := rfl
@[simp] theorem State.setNvm_draws (v : Nvm) : (s.setNvm v).draws = s.draws := rfl

/-! ### The update of `events` -/
@[simp] theorem State.setEvents_cfg (v : List Event) : (s.setEvents v).cfg = s.cfg := rfl
@[simp] theorem State.setEvents_sr (v : List Event) : (s.setEvents v).sr = s.sr := rfl
@[simp] theorem State.setEvents_pb (v : List Event) : (s.setEvents v).pb = s.pb := rfl
@[simp] theorem State.setEvents_pageIndex (v : List Event) : (s.setEvents v).pageIndex = s.pageIndex := rfl
@[simp] theorem State.setEvents_flashPageAddress (v : List Event) : (s.setEvents v).flashPageAddress = s.flashPageAddress := rfl
@[simp] theorem State.setEvents_trampolineBytes (v : List Event) : (s.setEvents v).trampolineBytes = s.trampolineBytes := rfl
@[simp] theorem State.setEvents_terminal (v : List Event) : (s.setEvents v).terminal = s.terminal := rfl
@[simp] theorem State.setEvents_exitCountdown (v : List Event) : (s.setEvents v).exitCountdown = s.exitCountdown := rfl
@[simp] theorem State.setEvents_indicator (v : List Event) : (s.setEvents v).indicator = s.indicator := rfl
@[simp] theorem State.setEvents_reply (v : List Event) : (s.setEvents v).reply = s.reply := rfl
@[simp] theorem State.setEvents_handoffTarget (v : List Event) : (s.setEvents v).handoffTarget = s.handoffTarget := rfl
@[simp] theorem State.setEvents_fault (v : List Event) : (s.setEvents v).fault = s.fault := rfl
@[simp] theorem State.setEvents_nvm (v : List Event) : (s.setEvents v).nvm = s.nvm := rfl
@[simp] theorem State.setEvents_events (v : List Event) : (s.setEvents v).events = v := rfl
@[simp] theorem State.setEvents_outputs (v : List Event) : (s.setEvents v).outputs = s.outputs := rfl
@[simp] theorem State.setEvents_draws (v : List Event) : (s.setEvents v).draws = s.draws := rfl

/-! ### The update of `outputs` -/
@[simp] theorem State.setOutputs_cfg (v : List Output) : (s.setOutputs v).cfg = s.cfg := rfl
@[simp] theorem State.setOutputs_sr (v : List Output) : (s.setOutputs v).sr = s.sr := rfl
@[simp] theorem State.setOutputs_pb (v : List Output) : (s.setOutputs v).pb = s.pb := rfl
@[simp] theorem State.setOutputs_pageIndex (v : List Output) : (s.setOutputs v).pageIndex = s.pageIndex := rfl
@[simp] theorem State.setOutputs_flashPageAddress (v : List Output) : (s.setOutputs v).flashPageAddress = s.flashPageAddress := rfl
@[simp] theorem State.setOutputs_trampolineBytes (v : List Output) : (s.setOutputs v).trampolineBytes = s.trampolineBytes := rfl
@[simp] theorem State.setOutputs_terminal (v : List Output) : (s.setOutputs v).terminal = s.terminal := rfl
@[simp] theorem State.setOutputs_exitCountdown (v : List Output) : (s.setOutputs v).exitCountdown = s.exitCountdown := rfl
@[simp] theorem State.setOutputs_indicator (v : List Output) : (s.setOutputs v).indicator = s.indicator := rfl
@[simp] theorem State.setOutputs_reply (v : List Output) : (s.setOutputs v).reply = s.reply := rfl
@[simp] theorem State.setOutputs_handoffTarget (v : List Output) : (s.setOutputs v).handoffTarget = s.handoffTarget := rfl
@[simp] theorem State.setOutputs_fault (v : List Output) : (s.setOutputs v).fault = s.fault := rfl
@[simp] theorem State.setOutputs_nvm (v : List Output) : (s.setOutputs v).nvm = s.nvm := rfl
@[simp] theorem State.setOutputs_events (v : List Output) : (s.setOutputs v).events = s.events := rfl
@[simp] theorem State.setOutputs_outputs (v : List Output) : (s.setOutputs v).outputs = v := rfl
@[simp] theorem State.setOutputs_draws (v : List Output) : (s.setOutputs v).draws = s.draws := rfl

/-! ### The update of `draws` -/
@[simp] theorem State.setDraws_cfg (v : Nat) : (s.setDraws v).cfg = s.cfg := rfl
@[simp] theorem State.setDraws_sr (v : Nat) : (s.setDraws v).sr = s.sr := rfl
@[simp] theorem State.setDraws_pb (v : Nat) : (s.setDraws v).pb = s.pb := rfl
@[simp] theorem State.setDraws_pageIndex (v : Nat) : (s.setDraws v).pageIndex = s.pageIndex := rfl
@[simp] theorem State.setDraws_flashPageAddress (v : Nat) : (s.setDraws v).flashPageAddress = s.flashPageAddress := rfl
@[simp] theorem State.setDraws_trampolineBytes (v : Nat) : (s.setDraws v).trampolineBytes = s.trampolineBytes := rfl
@[simp] theorem State.setDraws_terminal (v : Nat) : (s.setDraws v).terminal = s.terminal := rfl
@[simp] theorem State.setDraws_exitCountdown (v : Nat) : (s.setDraws v).exitCountdown = s.exitCountdown := rfl
@[simp] theorem State.setDraws_indicator (v : Nat) : (s.setDraws v).indicator = s.indicator := rfl
@[simp] theorem State.setDraws_reply (v : Nat) : (s.setDraws v).reply = s.reply := rfl
@[simp] theorem State.setDraws_handoffTarget (v : Nat) : (s.setDraws v).handoffTarget = s.handoffTarget := rfl
@[simp] theorem State.setDraws_fault (v : Nat) : (s.setDraws v).fault = s.fault := rfl
@[simp] theorem State.setDraws_nvm (v : Nat) : (s.setDraws v).nvm = s.nvm := rfl
@[simp] theorem State.setDraws_events (v : Nat) : (s.setDraws v).events = s.events := rfl
@[simp] theorem State.setDraws_outputs (v : Nat) : (s.setDraws v).outputs = s.outputs := rfl
@[simp] theorem State.setDraws_draws (v : Nat) : (s.setDraws v).draws = v := rfl

/-! ### Reset -/

/-- Flash right after reset is in the canonical form. -/
theorem State.reset_flash_wf : Memory.wf State.reset.nvm.flash := List.Pairwise.nil

end Sys2Proof.Machine
end

