-- ==== Sys2Proof/Laws/Ops.lean ====
section
/-! SUPPORT. What the shared operations do, said once: sequencing, the controller's primitives and
`programPage` (20_memory.md R56-R61), the chunk loop (40_dispatcher.md R117). -/

namespace Sys2Proof.Machine

/-! ### Sequencing -/

@[simp] theorem andThen_next (s : State) (f : State → Host.Outcome State Fault Refusal) :
    andThen (.next s) f = f s := rfl

@[simp] theorem andThen_fault (r : Fault) (f : State → Host.Outcome State Fault Refusal) :
    andThen (.fault r) f = .fault r := rfl

theorem andThen_eq_next {o : Host.Outcome State Fault Refusal}
    {f : State → Host.Outcome State Fault Refusal} {t : State} :
    andThen o f = .next t ↔ ∃ s, o = .next s ∧ f s = .next t := by
  cases o <;> simp [andThen]

/-! ### The controller: staging -/

/-- The words of a page image, low byte first. -/
def wordsOf : List Byte → List Word
  | lo :: hi :: rest => joinWord lo hi :: wordsOf rest
  | _ => []

/-- The NvmFill outputs of a page image. -/
def fillsFrom : Nat → List Byte → List Output
  | i, lo :: hi :: rest => .nvmFill i (joinWord lo hi) :: fillsFrom (i + 1) rest
  | _, _ => []

theorem wordsOf_length : ∀ img : List Byte, (wordsOf img).length = img.length / 2
  | [] => rfl
  | [_] => by simp [wordsOf]
  | _ :: _ :: rest => by simp [wordsOf, wordsOf_length rest]; omega

/-- R58 gives back the bytes that R61 staged. -/
theorem stageBytes_wordsOf : ∀ img : List Byte, img.length % 2 = 0 → stageBytes (wordsOf img) = img
  | [], _ => rfl
  | [_], h => by simp at h
  | lo :: hi :: rest, h => by
    have h' : rest.length % 2 = 0 := by simp at h; omega
    simp [wordsOf, stageBytes, stageBytes_wordsOf rest h']

theorem stageBytes_length (ws : List Word) : (stageBytes ws).length = 2 * ws.length := by
  induction ws with
  | nil => rfl
  | cons w ws ih => simp [stageBytes, ih]; omega

/-- R61's loop stages the image's words from index `i` on and changes nothing else but the outputs. -/
theorem fillFrom_eq : ∀ (img : List Byte) (i : Nat) (s : State),
    i + (wordsOf img).length ≤ s.nvm.stage.length →
    fillFrom i img s =
      (s.setNvm { s.nvm with
        stage := s.nvm.stage.take i ++ wordsOf img ++ s.nvm.stage.drop (i + (wordsOf img).length) }).setOutputs
      (s.outputs ++ fillsFrom i img)
  | [], i, s, _ => by simp [fillFrom, wordsOf, fillsFrom, State.setNvm, State.setOutputs]
  | [_], i, s, _ => by simp [fillFrom, wordsOf, fillsFrom, State.setNvm, State.setOutputs]
  | lo :: hi :: rest, i, s, h => by
    have hlen : i + 1 + (wordsOf rest).length ≤ s.nvm.stage.length := by
      simp [wordsOf] at h; omega
    have hi' : i < s.nvm.stage.length := by omega
    rw [fillFrom, fillFrom_eq rest (i + 1) _ (by simpa [nvmFill, emit] using hlen)]
    have e1 : (s.nvm.stage.set i (joinWord lo hi)).take (i + 1) =
        s.nvm.stage.take i ++ [joinWord lo hi] := by
      rw [List.take_add_one, List.take_set_of_le (Nat.le_refl i)]
      simp [hi']
    have e2 : (s.nvm.stage.set i (joinWord lo hi)).drop (i + ((wordsOf rest).length + 1)) =
        s.nvm.stage.drop (i + ((wordsOf rest).length + 1)) := by
      rw [List.drop_set_of_lt (by omega)]
    simp [nvmFill, emit, State.setNvm, State.setOutputs, e1, e2, wordsOf, fillsFrom,
      Nat.add_comm 1, Nat.add_assoc]

/-! ### The controller: one page -/

/-- R60: the hold ends, unless the controller never clears busy. -/
theorem waitNotBusy_ready {s : State} (h : s.nvm.neverReady = false) :
    waitNotBusy s = .next (s.setNvm { s.nvm with busy := false }) := by
  unfold waitNotBusy
  by_cases hb : s.nvm.busy
  · simp [hb, h]
  · have : s.nvm.busy = false := by simpa using hb
    obtain ⟨_, _, _, _, _, _, _, _, _, _, _, _, ⟨_, _, b, _⟩, _, _, _⟩ := s
    simp_all [State.setNvm]

theorem waitNotBusy_idle {s : State} (h : s.nvm.busy = false) : waitNotBusy s = .next s := by
  simp [waitNotBusy, h]

/-- R270: an operation of a controller that never clears busy hangs the block. -/
theorem waitNotBusy_hang {s : State} (hb : s.nvm.busy = true) (h : s.nvm.neverReady = true) :
    waitNotBusy s = .fault .controllerHang := by
  simp [waitNotBusy, hb, h]

/-- The controller after one `ProgramPage`. -/
def Nvm.programmed (n : Nvm) (a : Nat) (img : List Byte) : Nvm :=
  { n with flash := Memory.writeRange n.flash a img, stage := wordsOf img, busy := false }

/-- The primitives one `ProgramPage` issues. -/
def programOutputs (a : Nat) (img : List Byte) : List Output :=
  .nvmErase a :: (fillsFrom 0 img ++ [.nvmWrite a])

/-- R61's net effect: the page holds the image, and nothing but the controller and the outputs changes. -/
theorem programPage_eq {s : State} {a : Nat} {img : List Byte} (hr : s.nvm.neverReady = false)
    (hp : 2 * (s.cfg.pageSize / 2) = s.cfg.pageSize) (hi : img.length = s.cfg.pageSize)
    (hs : s.nvm.stage.length = s.cfg.pageSize / 2) :
    programPage a img s = .next
      ((s.setNvm (s.nvm.programmed a img)).setOutputs (s.outputs ++ programOutputs a img)) := by
  have hw : (wordsOf img).length = s.nvm.stage.length := by rw [wordsOf_length, hi, hs]
  have he : img.length % 2 = 0 := by omega
  have hww : Memory.writeRange (Memory.writeRange s.nvm.flash a
      (List.replicate s.cfg.pageSize s.cfg.erased)) a img = Memory.writeRange s.nvm.flash a img :=
    writeRange_writeRange _ _ _ _ (by simp [hi])
  have hd : s.nvm.stage.drop (wordsOf img).length = [] := by rw [hw]; exact List.drop_length
  unfold programPage
  rw [waitNotBusy_ready hr, andThen_next,
    waitNotBusy_ready (by simpa [nvmErase, emit] using hr), andThen_next,
    fillFrom_eq img 0 _ (by simp [nvmErase, emit, hw]),
    waitNotBusy_ready (by simpa [nvmErase, nvmWrite, emit] using hr)]
  simp [nvmErase, nvmWrite, emit, State.setNvm, State.setOutputs, Nvm.programmed, programOutputs,
    hd, stageBytes_wordsOf img he, hww]

/-- R270: `ProgramPage` never completes on a controller that never clears busy. -/
theorem programPage_hang {s : State} {a : Nat} {img : List Byte} (hr : s.nvm.neverReady = true) :
    programPage a img s = .fault .controllerHang := by
  unfold programPage
  by_cases hb : s.nvm.busy
  · simp [waitNotBusy_hang hb hr]
  · have hb' : s.nvm.busy = false := by simpa using hb
    rw [waitNotBusy_idle hb', andThen_next, waitNotBusy_hang (by simp [nvmErase, emit])
      (by simpa [nvmErase, emit] using hr), andThen_fault]

/-! ### The chunk loop -/

/-- The buffer after the bytes of a chunk went in from index `i` on. -/
def storeAt (pb : List Byte) : Nat → List Byte → List Byte
  | _, [] => pb
  | i, b :: bs => storeAt (pb.set i b) (i + 1) bs

@[simp] theorem storeAt_length (pb : List Byte) (i : Nat) (d : List Byte) :
    (storeAt pb i d).length = pb.length := by
  induction d generalizing pb i with
  | nil => rfl
  | cons b bs ih => simp [storeAt, ih]

/-- A byte of the chunk stands at its index; every other byte is as before. -/
theorem storeAt_getElem? (pb : List Byte) (i : Nat) (d : List Byte) (h : i + d.length ≤ pb.length)
    (x : Nat) : (storeAt pb i d)[x]? = if i ≤ x ∧ x < i + d.length then d[x - i]? else pb[x]? := by
  induction d generalizing pb i with
  | nil =>
    have : ¬ (i ≤ x ∧ x < i + ([] : List Byte).length) := by simp
    rw [if_neg this, storeAt]
  | cons b bs ih =>
    simp only [List.length_cons] at h
    rw [storeAt, ih _ _ (by simp; omega)]
    simp only [List.length_cons]
    by_cases h1 : x = i
    · subst h1
      have : x < pb.length := by omega
      simp [this]
    · by_cases h2 : i ≤ x ∧ x < i + (bs.length + 1)
      · have h3 : i + 1 ≤ x ∧ x < i + 1 + bs.length := by omega
        have h4 : x - i = (x - (i + 1)) + 1 := by omega
        simp [h2, h3, h4]
      · have h3 : ¬ (i + 1 ≤ x ∧ x < i + 1 + bs.length) := by omega
        have h4 : i ≠ x := by omega
        rw [if_neg h2, if_neg h3, List.getElem?_set_ne h4]

/-- R117's loop: the buffer, the index and the sum, and nothing else. -/
theorem appendChunk_eq (d : List Byte) (acc : Byte) (s : State) :
    appendChunk d acc s =
      ((s.setPb (storeAt s.pb s.pageIndex d)).setPageIndex (s.pageIndex + d.length), acc + sum8 d) := by
  induction d generalizing acc s with
  | nil => simp [appendChunk, storeAt, sum8, State.setPb, State.setPageIndex]
  | cons b bs ih =>
    rw [appendChunk, ih]
    simp [State.setPb, State.setPageIndex, storeAt, sum8, BitVec.add_assoc, Nat.add_assoc, Nat.add_comm 1]

end Sys2Proof.Machine
end

