-- ==== Sys2Proof/Laws/FlashWriter.lean ====
section
/-! SUPPORT. What commitPage and eraseAll do, said once (41_flash_writer.md R150-R159). -/

namespace Sys2Proof.Machine

variable {s t : State}

/-! ### The fix-ups of steps 1 and 2 -/

@[simp] theorem withTrampolineWord_length (s : State) (img : List Byte) :
    (withTrampolineWord s img).length = img.length := by simp [withTrampolineWord]

/-- The image keeps every byte but its last two, which are the trampoline word (R152). -/
theorem withTrampolineWord_getElem? (s : State) (img : List Byte) (hi : img.length = s.cfg.pageSize)
    (hp : 2 ≤ s.cfg.pageSize) (x : Nat) :
    (withTrampolineWord s img)[x]? =
      if x = s.cfg.pageSize - 2 then some s.trampolineBytes.lo
      else if x = s.cfg.pageSize - 1 then some s.trampolineBytes.hi
      else img[x]? := by
  unfold withTrampolineWord
  by_cases h1 : x = s.cfg.pageSize - 1
  · have h2 : x ≠ s.cfg.pageSize - 2 := by omega
    rw [if_neg h2, if_pos h1, ← h1, List.getElem?_set_self (by simp; omega)]
  · by_cases h2 : x = s.cfg.pageSize - 2
    · rw [if_pos h2, List.getElem?_set_ne (by omega), ← h2, List.getElem?_set_self (by omega)]
    · rw [if_neg h2, if_neg h1, List.getElem?_set_ne (by omega), List.getElem?_set_ne (by omega)]

/-- The buffer and the trampoline bytes after steps 1 and 2: nothing else is touched (R151, R152). -/
theorem fixups_eq (a : Word) (s : State) :
    placeTrampolineWord a (fixResetVector a s) =
      (s.setPb (placeTrampolineWord a (fixResetVector a s)).pb).setTrampolineBytes
        (placeTrampolineWord a (fixResetVector a s)).trampolineBytes := by
  unfold placeTrampolineWord fixResetVector
  split <;> split <;> rfl

theorem fixups_other {a : Word} (h0 : a ≠ 0) (ht : a.toNat ≠ s.cfg.tplPage) :
    placeTrampolineWord a (fixResetVector a s) = s := by
  rw [placeTrampolineWord, fixResetVector, if_neg h0, if_neg ht]

theorem fixups_zero (ht : s.cfg.tplPage ≠ 0) :
    placeTrampolineWord 0 (fixResetVector 0 s) =
      (s.setTrampolineBytes (trampoline s.cfg (s.pb.getD 0 0) (s.pb.getD 1 0))).setPb
        ((s.pb.set 0 (bootVector s.cfg).lo).set 1 (bootVector s.cfg).hi) := by
  simp [placeTrampolineWord, fixResetVector, Ne.symm ht]

theorem fixups_tplPage {a : Word} (h0 : a ≠ 0) (ht : a.toNat = s.cfg.tplPage) :
    placeTrampolineWord a (fixResetVector a s) = s.setPb (withTrampolineWord s s.pb) := by
  rw [placeTrampolineWord, fixResetVector, if_neg h0, if_pos ht]

@[simp] theorem fixups_cfg (a : Word) (s : State) :
    (placeTrampolineWord a (fixResetVector a s)).cfg = s.cfg := by
  rw [fixups_eq]; rfl

@[simp] theorem fixups_pb_length (a : Word) (s : State) :
    (placeTrampolineWord a (fixResetVector a s)).pb.length = s.pb.length := by
  unfold placeTrampolineWord fixResetVector
  split <;> split <;> simp [withTrampolineWord]

/-! ### commitPage -/

/-- R153: a commit in the bootloader's own region changes nothing. -/
theorem commitPage_protected (hv : s.cfg.Valid) {pa : Word}
    (h : s.cfg.bootStart ≤ (pageBase s.cfg pa).toNat) : commitPage pa s = .next s := by
  have h1 := hv.two_pages_le
  have h2 := hv.pageSize_ge
  have h0 : pageBase s.cfg pa ≠ 0 := by intro e; rw [e] at h; simp at h; omega
  have ht : (pageBase s.cfg pa).toNat ≠ s.cfg.tplPage := by unfold Config.tplPage; omega
  simp only [commitPage, fixups_other h0 ht]
  simp [protectedAddress, h]

/-- R152, R154: a commit to the trampoline page or to another application page but page 0 programs that
page alone, with the fixed-up buffer. -/
theorem commitPage_page (hv : s.cfg.Valid) (hr : s.nvm.neverReady = false)
    (hpb : s.pb.length = s.cfg.pageSize) (hst : s.nvm.stage.length = s.cfg.pageSize / 2) {pa : Word}
    (h0 : pageBase s.cfg pa ≠ 0) (h : (pageBase s.cfg pa).toNat < s.cfg.bootStart) :
    commitPage pa s = .next
      (((s.setPb (if (pageBase s.cfg pa).toNat = s.cfg.tplPage then withTrampolineWord s s.pb else s.pb)).setNvm
        (s.nvm.programmed (pageBase s.cfg pa).toNat
          (if (pageBase s.cfg pa).toNat = s.cfg.tplPage then withTrampolineWord s s.pb else s.pb))).setOutputs
        (s.outputs ++ programOutputs (pageBase s.cfg pa).toNat
          (if (pageBase s.cfg pa).toNat = s.cfg.tplPage then withTrampolineWord s s.pb else s.pb))) := by
  have hn : ¬ s.cfg.bootStart ≤ (pageBase s.cfg pa).toNat := by omega
  have hfix : placeTrampolineWord (pageBase s.cfg pa) (fixResetVector (pageBase s.cfg pa) s) =
      s.setPb (if (pageBase s.cfg pa).toNat = s.cfg.tplPage then withTrampolineWord s s.pb else s.pb) := by
    by_cases ht : (pageBase s.cfg pa).toNat = s.cfg.tplPage
    · rw [fixups_tplPage h0 ht, if_pos ht]
    · rw [fixups_other h0 ht, if_neg ht]; rfl
  simp only [commitPage, hfix]
  rw [if_neg (by simp [protectedAddress, hn]), programPage_eq (by simpa using hr) (by simpa using hv.pageSize_even)
    (by simp only [State.setPb_pb, State.setPb_cfg]; split <;> simp [hpb]) (by simpa using hst)]
  simp only [andThen_next, createTrampolinePage, if_neg h0, State.setPb_nvm, State.setPb_outputs, State.setPb_pb]

/-- The buffer after a commit to page 0 (R151). -/
def fixedPage0 (s : State) : List Byte := (s.pb.set 0 (bootVector s.cfg).lo).set 1 (bootVector s.cfg).hi

/-- The trampoline bytes a commit to page 0 stores (R151). -/
def newTrampoline (s : State) : BytePair := trampoline s.cfg (s.pb.getD 0 0) (s.pb.getD 1 0)

/-- The scratch image of step 5 of a commit to page 0 (R155). -/
def trampolineImage (s : State) : List Byte :=
  ((List.replicate s.cfg.pageSize s.cfg.erased).set (s.cfg.pageSize - 2) (newTrampoline s).lo).set
    (s.cfg.pageSize - 1) (newTrampoline s).hi

@[simp] theorem fixedPage0_length (s : State) : (fixedPage0 s).length = s.pb.length := by simp [fixedPage0]

@[simp] theorem trampolineImage_length (s : State) : (trampolineImage s).length = s.cfg.pageSize := by
  simp [trampolineImage]

/-- The buffer keeps every byte but its first two, which are the boot vector (R151). -/
theorem fixedPage0_getElem? (s : State) (hp : 2 ≤ s.pb.length) (x : Nat) : (fixedPage0 s)[x]? =
    if x = 0 then some (bootVector s.cfg).lo else if x = 1 then some (bootVector s.cfg).hi else s.pb[x]? := by
  unfold fixedPage0
  by_cases h1 : x = 1
  · subst h1
    rw [List.getElem?_set_self (by simp; omega), if_neg (by omega), if_pos rfl]
  · by_cases h0 : x = 0
    · subst h0
      rw [List.getElem?_set_ne (by omega), List.getElem?_set_self (by omega), if_pos rfl]
    · rw [if_neg h0, if_neg h1, List.getElem?_set_ne (by omega), List.getElem?_set_ne (by omega)]

/-- The scratch image is ERASED but for its last two bytes, which are the trampoline word (R155). -/
theorem trampolineImage_getElem? (s : State) (hp : 2 ≤ s.cfg.pageSize) (x : Nat) :
    (trampolineImage s)[x]? =
      if x = s.cfg.pageSize - 2 then some (newTrampoline s).lo
      else if x = s.cfg.pageSize - 1 then some (newTrampoline s).hi
      else if x < s.cfg.pageSize then some s.cfg.erased else none := by
  have h := withTrampolineWord_getElem? (s.setTrampolineBytes (newTrampoline s))
    (List.replicate s.cfg.pageSize s.cfg.erased) (by simp) hp x
  rw [List.getElem?_replicate] at h
  exact h

/-- R151, R154, R155: a commit to page 0 programs page 0 with the boot vector in place, and the trampoline
page with the new trampoline word. -/
theorem commitPage_zero (hv : s.cfg.Valid) (hr : s.nvm.neverReady = false)
    (hpb : s.pb.length = s.cfg.pageSize) (hst : s.nvm.stage.length = s.cfg.pageSize / 2) {pa : Word}
    (h0 : pageBase s.cfg pa = 0) :
    commitPage pa s = .next
      ((((s.setTrampolineBytes (newTrampoline s)).setPb (fixedPage0 s)).setNvm
        ((s.nvm.programmed 0 (fixedPage0 s)).programmed s.cfg.tplPage (trampolineImage s))).setOutputs
        (s.outputs ++ programOutputs 0 (fixedPage0 s) ++ programOutputs s.cfg.tplPage (trampolineImage s))) := by
  have h2 := hv.pageSize_ge
  have ht : s.cfg.tplPage ≠ 0 := by have := hv.pageSize_le_tplPage; omega
  have hb : ¬ s.cfg.bootStart ≤ 0 := by have := hv.two_pages_le; omega
  have hev := hv.pageSize_even
  have hf : (fixedPage0 s).length = s.cfg.pageSize := by simp [fixedPage0, hpb]
  have hfix : placeTrampolineWord 0 (fixResetVector 0 s) =
      (s.setTrampolineBytes (newTrampoline s)).setPb (fixedPage0 s) := fixups_zero ht
  have hz : (0 : Word).toNat = 0 := rfl
  simp only [commitPage, h0, hfix, hz]
  rw [if_neg (by simp [protectedAddress, hb]), programPage_eq (by simpa using hr) (by simpa using hev)
    (by simpa using hf) (by simpa using hst), andThen_next, createTrampolinePage, if_pos rfl,
    programPage_eq (by simpa [Nvm.programmed] using hr) (by simpa using hev) (by simp)
    (by simp [Nvm.programmed, wordsOf_length, hf])]
  simp [State.setNvm, State.setOutputs, State.setPb, State.setTrampolineBytes, Nvm.programmed,
    trampolineImage, withTrampolineWord]

/-- R270: a commit that reaches the controller hangs when it never clears busy. -/
theorem commitPage_hang (hr : s.nvm.neverReady = true) {pa : Word}
    (h : (pageBase s.cfg pa).toNat < s.cfg.bootStart) : commitPage pa s = .fault .controllerHang := by
  have hn : ¬ s.cfg.bootStart ≤ (pageBase s.cfg pa).toNat := by omega
  simp only [commitPage]
  rw [if_neg (by simp [protectedAddress, hn]), programPage_hang, andThen_fault]
  rw [fixups_eq]
  simpa using hr

/-! ### eraseAll -/

/-- The erases of `n` pages from address `a` on. -/
def eraseOutputs (p : Nat) : Nat → Nat → List Output
  | 0, _ => []
  | n + 1, a => .nvmErase a :: eraseOutputs p n (a + p)

/-- R158's loop: the run of pages is erased, and nothing but the controller and the outputs changes. -/
theorem erasePages_eq (n a : Nat) (s : State) (hr : s.nvm.neverReady = false) (hb : s.nvm.busy = false) :
    erasePages n a s = .next
      ((s.setNvm { s.nvm with
        flash := if n = 0 then s.nvm.flash
          else Memory.writeRange s.nvm.flash a (List.replicate (n * s.cfg.pageSize) s.cfg.erased) }).setOutputs
        (s.outputs ++ eraseOutputs s.cfg.pageSize n a)) := by
  induction n generalizing a s with
  | zero => simp [erasePages, eraseOutputs, State.setNvm, State.setOutputs]
  | succ n ih =>
    rw [erasePages, waitNotBusy_idle hb, andThen_next,
      waitNotBusy_ready (by simpa [nvmErase, emit] using hr), andThen_next,
      ih _ _ (by simpa [nvmErase, emit] using hr) (by simp)]
    rcases Nat.eq_zero_or_pos n with h0 | h0
    · subst h0
      simp [nvmErase, emit, State.setNvm, State.setOutputs, eraseOutputs, hb]
    · have hn : n ≠ 0 := by omega
      have e : Memory.writeRange (Memory.writeRange s.nvm.flash a (List.replicate s.cfg.pageSize s.cfg.erased))
          (a + s.cfg.pageSize) (List.replicate (n * s.cfg.pageSize) s.cfg.erased) =
          Memory.writeRange s.nvm.flash a (List.replicate ((n + 1) * s.cfg.pageSize) s.cfg.erased) := by
        have h := writeRange_adjacent s.nvm.flash a (List.replicate s.cfg.pageSize s.cfg.erased)
          (List.replicate (n * s.cfg.pageSize) s.cfg.erased)
        rw [List.length_replicate] at h
        rw [h, List.replicate_append_replicate, Nat.add_comm, Nat.succ_mul]
      simp [nvmErase, emit, State.setNvm, State.setOutputs, eraseOutputs, hb, hn, e]

/-- The state whose buffer holds the erased value everywhere (R158). -/
def erasedBuffer (s : State) : State := s.setPb (List.replicate s.cfg.pageSize s.cfg.erased)

/-- Flash after eraseAll: page 0, the trampoline page, then the application pages from page 1. -/
def erasedFlash (s : State) : Memory :=
  let m := Memory.writeRange (Memory.writeRange s.nvm.flash 0 (fixedPage0 (erasedBuffer s))) s.cfg.tplPage
    (trampolineImage (erasedBuffer s))
  if s.cfg.tplPage / s.cfg.pageSize - 1 = 0 then m
  else Memory.writeRange m s.cfg.pageSize
    (List.replicate ((s.cfg.tplPage / s.cfg.pageSize - 1) * s.cfg.pageSize) s.cfg.erased)

/-- The number of bytes R158's loop erases. -/
theorem erased_bytes {c : Config} (hv : c.Valid) :
    (c.tplPage / c.pageSize - 1) * c.pageSize = c.tplPage - c.pageSize := by
  have h := Nat.div_mul_cancel (Nat.dvd_of_mod_eq_zero hv.tplPage_mod)
  rw [Nat.sub_mul, h, Nat.one_mul]

/-- Every byte of Flash after eraseAll: page 0, the erased pages, the trampoline page, the bootloader. -/
theorem read_erasedFlash (hv : s.cfg.Valid) (x : Nat) :
    Memory.read (erasedFlash s) x =
      if x < s.cfg.pageSize then (fixedPage0 (erasedBuffer s))[x]?
      else if x < s.cfg.tplPage then some s.cfg.erased
      else if x < s.cfg.bootStart then (trampolineImage (erasedBuffer s))[x - s.cfg.tplPage]?
      else Memory.read s.nvm.flash x := by
  have htp := hv.pageSize_le_tplPage
  have hta := hv.tplPage_add
  have hn := erased_bytes hv
  have hfl : (fixedPage0 (erasedBuffer s)).length = s.cfg.pageSize := by simp [erasedBuffer]
  have htl : (trampolineImage (erasedBuffer s)).length = s.cfg.pageSize := by simp; rfl
  have hm : Memory.read (Memory.writeRange (Memory.writeRange s.nvm.flash 0 (fixedPage0 (erasedBuffer s)))
      s.cfg.tplPage (trampolineImage (erasedBuffer s))) x =
      if s.cfg.tplPage ≤ x ∧ x < s.cfg.bootStart then (trampolineImage (erasedBuffer s))[x - s.cfg.tplPage]?
      else if x < s.cfg.pageSize then (fixedPage0 (erasedBuffer s))[x]? else Memory.read s.nvm.flash x := by
    rw [read_writeRange, read_writeRange, htl, hfl, hta]
    simp
  unfold erasedFlash
  simp only
  by_cases hz : s.cfg.tplPage / s.cfg.pageSize - 1 = 0
  · rw [if_pos hz, hm]
    rw [hz] at hn
    by_cases h1 : x < s.cfg.pageSize
    · rw [if_neg (by omega), if_pos h1, if_pos h1]
    · rw [if_neg h1, if_neg (show ¬ x < s.cfg.tplPage by omega), if_neg h1]
      by_cases h2 : x < s.cfg.bootStart
      · rw [if_pos (by omega), if_pos h2]
      · rw [if_neg (by omega), if_neg h2]
  · rw [if_neg hz, read_writeRange, List.length_replicate, hn, hm, List.getElem?_replicate]
    split_ifs <;> first | rfl | (exfalso; omega)

/-- R158: everything eraseAll does. -/
theorem eraseAll_eq (hv : s.cfg.Valid) (hr : s.nvm.neverReady = false)
    (hst : s.nvm.stage.length = s.cfg.pageSize / 2) :
    eraseAll s = .next
      ((((s.setTrampolineBytes (newTrampoline (erasedBuffer s))).setPb (fixedPage0 (erasedBuffer s))).setNvm
        { s.nvm with flash := erasedFlash s, stage := wordsOf (trampolineImage (erasedBuffer s)), busy := false }).setOutputs
        (s.outputs ++ programOutputs 0 (fixedPage0 (erasedBuffer s)) ++
          programOutputs s.cfg.tplPage (trampolineImage (erasedBuffer s)) ++
          eraseOutputs s.cfg.pageSize (s.cfg.tplPage / s.cfg.pageSize - 1) s.cfg.pageSize)) := by
  unfold eraseAll
  rw [show s.setPb (List.replicate s.cfg.pageSize s.cfg.erased) = erasedBuffer s from rfl,
    commitPage_zero (s := erasedBuffer s) (by simpa [erasedBuffer] using hv)
      (by simpa [erasedBuffer] using hr) (by simp [erasedBuffer]) (by simpa [erasedBuffer] using hst)
      pageBase_zero, andThen_next,
    erasePages_eq _ _ _ (by simpa [Nvm.programmed, erasedBuffer] using hr) (by simp [Nvm.programmed])]
  simp [erasedBuffer, erasedFlash, State.setNvm, State.setOutputs, State.setPb, State.setTrampolineBytes,
    Nvm.programmed]

/-- R270 again: eraseAll reaches the controller. -/
theorem eraseAll_hang (hv : s.cfg.Valid) (hr : s.nvm.neverReady = true) :
    eraseAll s = .fault .controllerHang := by
  unfold eraseAll
  have := hv.two_pages_le
  have := hv.pageSize_ge
  have hz : (pageBase s.cfg 0).toNat = 0 := by rw [pageBase_zero]; rfl
  rw [commitPage_hang (by simpa using hr) (by rw [State.setPb_cfg, hz]; omega), andThen_fault]

/-! ### What a commit or an erase can change at all -/

/-- What a commit may change: the buffer, the trampoline bytes, the controller and the outputs. -/
def CommitChanges (s t : State) : Prop := t = { s with
  pb := t.pb
  trampolineBytes := t.trampolineBytes
  nvm := t.nvm
  outputs := t.outputs }

theorem CommitChanges.refl (s : State) : CommitChanges s s := rfl

theorem CommitChanges.trans {u : State} (h : CommitChanges s t) (k : CommitChanges t u) : CommitChanges s u := by
  unfold CommitChanges at *
  rw [k, h]

theorem waitNotBusy_changes (h : waitNotBusy s = .next t) : CommitChanges s t := by
  unfold waitNotBusy at h
  split at h
  · split at h <;> cases h; exact rfl
  · cases h; exact rfl

theorem nvmErase_changes (a : Nat) (s : State) : CommitChanges s (nvmErase a s) := rfl

theorem nvmWrite_changes (a : Nat) (s : State) : CommitChanges s (nvmWrite a s) := rfl

theorem fillFrom_changes : ∀ (img : List Byte) (i : Nat) (s : State), CommitChanges s (fillFrom i img s)
  | [], _, s => rfl
  | [_], _, s => rfl
  | lo :: hi :: rest, i, s => by
    rw [fillFrom]; exact CommitChanges.trans (t := nvmFill i (joinWord lo hi) s) rfl (fillFrom_changes rest (i+1) _)

theorem programPage_changes {a : Nat} {img : List Byte} (h : programPage a img s = .next t) : CommitChanges s t := by
  unfold programPage at h
  obtain ⟨u, hu, h⟩ := andThen_eq_next.1 h
  obtain ⟨v, hv, h⟩ := andThen_eq_next.1 h
  exact (waitNotBusy_changes hu).trans ((nvmErase_changes a u).trans ((waitNotBusy_changes hv).trans
    ((fillFrom_changes img 0 v).trans ((nvmWrite_changes a _).trans (waitNotBusy_changes h)))))

theorem fixups_changes (a : Word) (s : State) : CommitChanges s (placeTrampolineWord a (fixResetVector a s)) := by
  rw [fixups_eq]; rfl

theorem commitPage_changes {pa : Word} (h : commitPage pa s = .next t) : CommitChanges s t := by
  simp only [commitPage] at h
  refine (fixups_changes (pageBase s.cfg pa) s).trans ?_
  split at h
  · cases h; exact .refl _
  · obtain ⟨u, hu, h⟩ := andThen_eq_next.1 h
    refine (programPage_changes hu).trans ?_
    unfold createTrampolinePage at h
    split at h
    · exact programPage_changes h
    · cases h; exact .refl _

theorem erasePages_changes {n a : Nat} (h : erasePages n a s = .next t) : CommitChanges s t := by
  induction n generalizing a s with
  | zero => cases h; rfl
  | succ n ih =>
    rw [erasePages] at h
    obtain ⟨u, hu, h⟩ := andThen_eq_next.1 h
    obtain ⟨v, hv, h⟩ := andThen_eq_next.1 h
    exact (waitNotBusy_changes hu).trans ((nvmErase_changes a u).trans ((waitNotBusy_changes hv).trans (ih h)))

theorem eraseAll_changes (h : eraseAll s = .next t) : CommitChanges s t := by
  unfold eraseAll at h
  obtain ⟨u, hu, h⟩ := andThen_eq_next.1 h
  exact CommitChanges.trans (t := s.setPb _) rfl ((commitPage_changes hu).trans (erasePages_changes h))

end Sys2Proof.Machine
end

