-- ==== Sys2Proof/Laws/Step.lean ====
section
/-! SUPPORT. What a step can be (00_scope.md R7, R10, R14), what the Supervisor states say of the fields
(10_state.md R33), and the Ticks in each (43_supervisor.md R201, R204). -/

namespace Sys2Proof.Machine

variable {s t : State}

/-- A step with an event performs it. -/
theorem step_of_event (hv : s.cfg.Valid) {e : Event} {es : List Event} (h : s.events = e :: es) :
    step s = perform e (s.setEvents es) := by
  rw [step, if_pos hv, h]

theorem step_of_no_event (hv : s.cfg.Valid) (h : s.events = []) : step s = .next s := by
  rw [step, if_pos hv, h]

theorem step_of_invalid (hv : ¬ s.cfg.Valid) : step s = .refused .invalidConfig := by
  rw [step, if_neg hv]

/-- Everything a completed step can be: nothing waits, or the first event was performed. -/
theorem step_cases (h : step s = .next t) : s.cfg.Valid ∧
    ((s.events = [] ∧ t = s) ∨ ∃ e es, s.events = e :: es ∧ perform e (s.setEvents es) = .next t) := by
  by_cases hv : s.cfg.Valid
  · refine ⟨hv, ?_⟩
    cases he : s.events with
    | nil => rw [step_of_no_event hv he] at h; exact .inl ⟨rfl, by cases h; rfl⟩
    | cons e es => rw [step_of_event hv he] at h; exact .inr ⟨e, es, rfl, h⟩
  · rw [step_of_invalid hv] at h; cases h

/-- A run of `n + 1` steps is a step and a run of `n`. -/
theorem run_of_step (h : step s = .next t) (n : Nat) :
    Host.Core.run Sys2Proof.core (n + 1) s = Host.Core.run Sys2Proof.core n t := by
  have h' : Sys2Proof.core.step s = .next t := h
  simp only [Host.Core.run, h']

theorem run_zero (s : State) : Host.Core.run Sys2Proof.core 0 s = .next s := rfl

/-! ### The Supervisor states -/

theorem halted_eq_true : s.halted = true ↔ s.fault ≠ none ∨ s.terminal = true := by
  unfold State.halted; cases s.fault <;> simp

theorem halted_eq_false : s.halted = false ↔ s.fault = none ∧ s.terminal = false := by
  unfold State.halted; cases s.fault <;> simp

theorem sup_eq_terminal : s.sup = .terminal ↔ s.terminal = true := by
  unfold State.sup; split <;> [skip; split] <;> simp_all

theorem sup_eq_idle : s.sup = .idle ↔ s.terminal = false ∧ s.sr.initStep1 = true ∧ s.sr.initStep2 = true := by
  unfold State.sup; split <;> [skip; split] <;> simp_all

theorem sup_eq_uninitialized : s.sup = .uninitialized ↔
    s.terminal = false ∧ ¬ (s.sr.initStep1 = true ∧ s.sr.initStep2 = true) := by
  unfold State.sup; split <;> [skip; split] <;> simp_all

/-! ### The events -/

theorem onReceive_halted (h : s.halted = true) (q : List Byte) : onReceive q s = .next s := by
  rw [onReceive, if_pos h]

theorem onReceive_running (h : s.halted = false) (q : List Byte) : onReceive q s = exec (decode s.cfg q) s := by
  rw [onReceive, if_neg (by simp [h])]

theorem onRequest_halted (h : s.halted = true) : onRequest s = .next s := by
  rw [onRequest, if_pos h]

theorem onRequest_running (h : s.halted = false) :
    onRequest s = .next ((emit (s.reply.map .transmit) s).setReply []) := by
  rw [onRequest, if_neg (by simp [h])]

theorem onTick_halted (h : s.halted = true) : onTick s = .next s := by
  rw [onTick, if_pos h]

theorem onTick_uninitialized (hf : s.fault = none) (h : s.sup = .uninitialized) :
    onTick s = .next (tickUninitialized s) := by
  rw [onTick, if_neg (by simp [halted_eq_false.2 ⟨hf, (sup_eq_uninitialized.1 h).1⟩]), h]

theorem onTick_idle (hf : s.fault = none) (h : s.sup = .idle) : onTick s = tickIdle s := by
  rw [onTick, if_neg (by simp [halted_eq_false.2 ⟨hf, (sup_eq_idle.1 h).1⟩]), h]

/-- Everything a step with an event can be, event by event (R110, R111, R200, R260). -/
theorem event_cases {e : Event} {es : List Event} (he : s.events = e :: es) (h : step s = .next t) :
    s.cfg.Valid ∧ (
      (e ≠ .reset ∧ s.halted = true ∧ t = s.setEvents es) ∨
      (∃ q, e = .receive q ∧ s.halted = false ∧ exec (decode s.cfg q) (s.setEvents es) = .next t) ∨
      (e = .request ∧ s.halted = false ∧
        t = (emit (s.reply.map .transmit) (s.setEvents es)).setReply []) ∨
      (e = .tick ∧ s.fault = none ∧ s.sup = .uninitialized ∧ t = tickUninitialized (s.setEvents es)) ∨
      (e = .tick ∧ s.fault = none ∧ s.sup = .idle ∧ tickIdle (s.setEvents es) = .next t) ∨
      (e = .reset ∧ onReset (s.setEvents es) = .next t)) := by
  obtain ⟨hv, hc⟩ := step_cases h
  refine ⟨hv, ?_⟩
  rcases hc with ⟨he', _⟩ | ⟨e', es', he', hp⟩
  · rw [he] at he'; cases he'
  · rw [he] at he'
    cases he'
    cases hh : s.halted with
    | true =>
      cases e with
      | receive q =>
        rw [perform, onReceive_halted (s := s.setEvents es) hh] at hp
        cases hp; exact .inl ⟨by simp, rfl, rfl⟩
      | request =>
        rw [perform, onRequest_halted (s := s.setEvents es) hh] at hp
        cases hp; exact .inl ⟨by simp, rfl, rfl⟩
      | tick =>
        rw [perform, onTick_halted (s := s.setEvents es) hh] at hp
        cases hp; exact .inl ⟨by simp, rfl, rfl⟩
      | reset => exact .inr (.inr (.inr (.inr (.inr ⟨rfl, hp⟩))))
    | false =>
      obtain ⟨hf, ht⟩ := halted_eq_false.1 hh
      cases e with
      | receive q =>
        rw [perform, onReceive_running (s := s.setEvents es) hh] at hp
        exact .inr (.inl ⟨q, rfl, rfl, hp⟩)
      | request =>
        rw [perform, onRequest_running (s := s.setEvents es) hh] at hp
        cases hp; exact .inr (.inr (.inl ⟨rfl, rfl, rfl⟩))
      | tick =>
        cases hs : s.sup with
        | terminal => rw [sup_eq_terminal] at hs; simp_all
        | uninitialized =>
          rw [perform, onTick_uninitialized (s := s.setEvents es) hf hs] at hp
          cases hp; exact .inr (.inr (.inr (.inl ⟨rfl, hf, rfl, rfl⟩)))
        | idle =>
          rw [perform, onTick_idle (s := s.setEvents es) hf hs] at hp
          exact .inr (.inr (.inr (.inr (.inl ⟨rfl, hf, rfl, hp⟩))))
      | reset => exact .inr (.inr (.inr (.inr (.inr ⟨rfl, hp⟩))))

end Sys2Proof.Machine
end

