-- ==== Sys2Proof/Laws/Claims.lean ====
section
/-! SUPPORT. How a claim about a run unfolds, step by step (60_exceptions.md R236). -/

namespace Sys2Proof.Machine

variable {s t : State} {n : Nat} {P : State → Prop}

theorem observable_iff : s.Observable ↔ s.fault = none := Iff.rfl

theorem claims_zero : s.Claims 0 P ↔ s.fault = none ∧ P s := Iff.rfl

theorem claims_succ : s.Claims (n + 1) P ↔ s.fault = none ∧ ∃ t, step s = .next t ∧ t.Claims n P := Iff.rfl

/-- No claim holds from a faulted state. -/
theorem not_claims_of_fault (h : s.fault ≠ none) : ¬ s.Claims n P := by
  cases n <;> exact fun hc => h hc.1

/-- A claim after a completed step is the claim one step earlier, from a state without a fault. -/
theorem claims_of_step (hf : s.fault = none) (h : step s = .next t) : s.Claims (n + 1) P ↔ t.Claims n P := by
  rw [claims_succ, h]
  exact ⟨fun ⟨_, _, e, hc⟩ => by cases e; exact hc, fun hc => ⟨hf, t, rfl, hc⟩⟩

/-- A claim is kept by a weaker one. -/
theorem State.Claims.mono {Q : State → Prop} (h : ∀ t, P t → Q t) (hc : s.Claims n P) : s.Claims n Q := by
  induction n generalizing s with
  | zero => exact ⟨hc.1, h _ hc.2⟩
  | succ n ih => obtain ⟨hf, t, ht, hc⟩ := hc; exact ⟨hf, t, ht, ih hc⟩

end Sys2Proof.Machine
end

