-- ==== Sys2Proof/Laws/Decode.lean ====
section
/-! SUPPORT. The seven opcodes are pairwise distinct (00_scope.md R8), so each has its own frame length
(30_encoding.md R83). -/

namespace Sys2Proof

variable {c : Config}

/-- The pairs of opcodes that the order of R85 tells apart. -/
theorem Config.Valid.opcode_ne (h : c.Valid) :
    c.opcInit ≠ c.opcVersion ∧ c.opcExit ≠ c.opcVersion ∧ c.opcExit ≠ c.opcInit ∧
    c.opcDelete ≠ c.opcVersion ∧ c.opcDelete ≠ c.opcInit ∧ c.opcDelete ≠ c.opcExit ∧
    c.opcSetaddr ≠ c.opcVersion ∧ c.opcSetaddr ≠ c.opcInit ∧ c.opcSetaddr ≠ c.opcExit ∧
    c.opcSetaddr ≠ c.opcDelete ∧
    c.opcWrite ≠ c.opcVersion ∧ c.opcWrite ≠ c.opcInit ∧ c.opcWrite ≠ c.opcExit ∧
    c.opcWrite ≠ c.opcDelete ∧ c.opcWrite ≠ c.opcSetaddr ∧
    c.opcRead ≠ c.opcVersion ∧ c.opcRead ≠ c.opcInit ∧ c.opcRead ≠ c.opcExit ∧
    c.opcRead ≠ c.opcDelete ∧ c.opcRead ≠ c.opcSetaddr ∧ c.opcRead ≠ c.opcWrite := by
  have h' := h.opcodes_nodup
  simp only [Config.opcodes, List.nodup_cons, List.mem_cons, List.not_mem_nil, or_false, not_or] at h'
  obtain ⟨⟨a1, a2, a3, a4, a5, a6⟩, ⟨b1, b2, b3, b4, b5⟩, ⟨c1, c2, c3, c4⟩, ⟨d1, d2, d3⟩, ⟨e1, e2⟩, f1, _⟩ := h'
  exact ⟨a1, Ne.symm b4, Ne.symm a5, Ne.symm b1, Ne.symm a2, c3, Ne.symm b2, Ne.symm a3, d2, Ne.symm c1,
    Ne.symm b3, Ne.symm a4, e1, Ne.symm c2, Ne.symm d1, Ne.symm b5, Ne.symm a6, Ne.symm f1, Ne.symm c4,
    Ne.symm d3, Ne.symm e2⟩

theorem requestLength_opcVersion : requestLength c c.opcVersion = some 1 := by simp [requestLength]

theorem requestLength_opcInit : requestLength c c.opcInit = some 1 := by
  by_cases h : c.opcInit = c.opcVersion <;> simp [requestLength, h]

theorem requestLength_opcExit (h : c.Valid) : requestLength c c.opcExit = some 1 := by
  have := h.opcode_ne
  simp [requestLength, this]

theorem requestLength_opcDelete (h : c.Valid) : requestLength c c.opcDelete = some 1 := by
  have := h.opcode_ne
  simp [requestLength, this]

theorem requestLength_opcSetaddr (h : c.Valid) : requestLength c c.opcSetaddr = some 3 := by
  have := h.opcode_ne
  simp [requestLength, this]

theorem requestLength_opcWrite (h : c.Valid) : requestLength c c.opcWrite = some (c.chunkN + 2) := by
  have := h.opcode_ne
  simp [requestLength, this]

theorem requestLength_opcRead (h : c.Valid) :
    requestLength c c.opcRead = if c.featureRead = true then some 3 else none := by
  have := h.opcode_ne
  simp [requestLength, this]

end Sys2Proof
end

