-- ==== Sys2Proof/Laws/Exec.lean ====
section
/-! SUPPORT. What a command can change at all (40_dispatcher.md R112-R121), said once over every
instruction. -/

namespace Sys2Proof.Machine

variable {s t : State} {i : Instr}

/-- A command changes the flags, the buffer, the index, the page address, the reply and the fault, and
nothing else. -/
theorem exec_changes (h : exec i s = .next t) : t = { s with
    sr := t.sr
    pb := t.pb
    pageIndex := t.pageIndex
    flashPageAddress := t.flashPageAddress
    reply := t.reply
    fault := t.fault } := by
  cases i with
  | write d k =>
    simp only [exec, execWrite, appendChunk_eq] at h
    split at h
    · cases h; unfold raiseFault; split <;> rfl
    · cases h; split <;> rfl
  | read start length =>
    simp only [exec, execRead] at h
    split at h <;> cases h <;> rfl
  | _ => cases h; rfl

/-- The page address after a command (R116). -/
theorem exec_flashPageAddress (h : exec i s = .next t) :
    t.flashPageAddress = s.flashPageAddress ∨ ∃ a, t.flashPageAddress = pageBase s.cfg a := by
  cases i with
  | write d k =>
    simp only [exec, execWrite, appendChunk_eq] at h
    split at h
    · cases h; unfold raiseFault; split <;> exact .inl rfl
    · cases h; split <;> exact .inl rfl
  | read start length =>
    simp only [exec, execRead] at h
    split at h <;> cases h <;> exact .inl rfl
  | setaddr hi lo => cases h; exact .inr ⟨_, rfl⟩
  | _ => cases h; exact .inl rfl

/-- The buffer, the index and the fault after a command: a chunk that fits goes in, a chunk that does not
raises the fault, and no other command touches them (R117, R121). -/
theorem exec_buffer (h : exec i s = .next t) :
    (t.pb = s.pb ∧ t.pageIndex = s.pageIndex ∧ t.fault = s.fault) ∨
    ∃ d k, i = .write d k ∧
      ((s.cfg.pageSize < s.pageIndex + s.cfg.chunkN ∧ t.pb = s.pb ∧ t.pageIndex = s.pageIndex ∧
          t.fault = (raiseFault .pageOverflow s).fault ∧ t.sr = s.sr) ∨
        (s.pageIndex + s.cfg.chunkN ≤ s.cfg.pageSize ∧ t.pb = storeAt s.pb s.pageIndex d ∧
          t.pageIndex = s.pageIndex + d.length ∧ t.fault = s.fault)) := by
  cases i with
  | write d k =>
    refine .inr ⟨d, k, rfl, ?_⟩
    simp only [exec, execWrite, appendChunk_eq] at h
    split at h
    · rename_i ho
      cases h
      exact .inl ⟨ho, by unfold raiseFault; split <;> rfl, by unfold raiseFault; split <;> rfl, rfl,
        by unfold raiseFault; split <;> rfl⟩
    · rename_i ho
      cases h
      exact .inr ⟨by omega, by split <;> rfl, by split <;> rfl, by split <;> rfl⟩
  | read start length =>
    simp only [exec, execRead] at h
    split at h <;> cases h <;> exact .inl ⟨rfl, rfl, rfl⟩
  | _ => cases h; exact .inl ⟨rfl, rfl, rfl⟩

/-- The flags after a command (R22-R26, R118). -/
theorem exec_sr (h : exec i s = .next t) :
    t.sr = s.sr ∨
    (i = .initdev ∧ t.sr = { s.sr with initStep1 := true }) ∨
    (i = .getver ∧ t.sr = { s.sr with initStep2 := true }) ∨
    (i = .delapp ∧ t.sr = { s.sr with deleteFlashRequested := true }) ∨
    (i = .exit ∧ t.sr = { s.sr with exitRequested := true }) ∨
    (∃ d k, i = .write d k ∧ t.sr = { s.sr with applicationReady := false, deleteFlashRequested := true }) := by
  cases i with
  | write d k =>
    simp only [exec, execWrite, appendChunk_eq] at h
    split at h
    · cases h; unfold raiseFault; split <;> exact .inl rfl
    · cases h
      split
      · exact .inl rfl
      · exact .inr (.inr (.inr (.inr (.inr ⟨d, k, rfl, rfl⟩))))
  | read start length =>
    simp only [exec, execRead] at h
    split at h <;> cases h <;> exact .inl rfl
  | initdev => cases h; exact .inr (.inl ⟨rfl, rfl⟩)
  | getver => cases h; exact .inr (.inr (.inl ⟨rfl, rfl⟩))
  | delapp => cases h; exact .inr (.inr (.inr (.inl ⟨rfl, rfl⟩)))
  | exit => cases h; exact .inr (.inr (.inr (.inr (.inl ⟨rfl, rfl⟩))))
  | setaddr hi lo => cases h; exact .inl rfl
  | unknown q => cases h; exact .inl rfl

end Sys2Proof.Machine
end

