-- ==== Sys2Proof/Laws/Outputs.lean ====
section
/-! SUPPORT. The primitives that a commit or an erase issues, in the form the statements give them (20_memory.md
R61, 41_flash_writer.md R155, R158). -/

namespace Sys2Proof.Machine

/-- The fills of an image are its words in index order. -/
theorem fillsFrom_eq_map : ∀ (img : List Byte) (i : Nat), fillsFrom i img =
    (List.range (img.length / 2)).map (fun k =>
      .nvmFill (i + k) (joinWord (img.getD (2 * k) 0) (img.getD (2 * k + 1) 0)))
  | [], _ => rfl
  | [_], _ => by simp [fillsFrom]
  | lo :: hi :: rest, i => by
    rw [fillsFrom, fillsFrom_eq_map rest (i + 1), show (lo :: hi :: rest).length / 2 = rest.length / 2 + 1 by
        simp; omega,
      List.range_succ_eq_map]
    simp [Function.comp_def, Nat.mul_add, Nat.add_assoc, Nat.add_comm 1]

/-- What `programPage` issues is R61's sequence. -/
theorem programOutputs_eq {c : Config} {img : List Byte} (hi : img.length = c.pageSize) (a : Nat) :
    programOutputs a img = programSequence c a img := by
  simp [programOutputs, programSequence, fillsFrom_eq_map, hi]

/-- The erases of a run of pages, by page number. -/
theorem eraseOutputs_eq_map (p n a : Nat) :
    eraseOutputs p n a = (List.range n).map (fun i => .nvmErase (a + i * p)) := by
  induction n generalizing a with
  | zero => rfl
  | succ n ih =>
    rw [eraseOutputs, ih, List.range_succ_eq_map]
    simp [Function.comp_def, Nat.add_mul, Nat.add_assoc, Nat.add_comm p]

/-- Setting the last two bytes of a page of one value. -/
theorem replicate_set_last_two (e lo hi : Byte) (n : Nat) :
    ((List.replicate (n + 2) e).set n lo).set (n + 1) hi = List.replicate n e ++ [lo, hi] := by
  rw [← List.replicate_append_replicate]
  simp [List.replicate]

/-- The scratch image of a page 0 commit, written out (R155). -/
theorem trampolineImage_eq {s : State} (hp : 2 ≤ s.cfg.pageSize) : trampolineImage s =
    List.replicate (s.cfg.pageSize - 2) s.cfg.erased ++ [(newTrampoline s).lo, (newTrampoline s).hi] := by
  obtain ⟨n, hn⟩ : ∃ n, s.cfg.pageSize = n + 2 := ⟨s.cfg.pageSize - 2, by omega⟩
  simp [trampolineImage, hn, replicate_set_last_two]

/-- Page 0 as eraseAll commits it (R158). -/
theorem fixedPage0_erasedBuffer {s : State} (hp : 2 ≤ s.cfg.pageSize) : fixedPage0 (erasedBuffer s) =
    (bootVector s.cfg).lo :: (bootVector s.cfg).hi :: List.replicate (s.cfg.pageSize - 2) s.cfg.erased := by
  obtain ⟨n, hn⟩ : ∃ n, s.cfg.pageSize = n + 2 := ⟨s.cfg.pageSize - 2, by omega⟩
  simp [fixedPage0, erasedBuffer, hn, List.replicate]

end Sys2Proof.Machine
end

