-- ==== Sys2Proof/Laws/PerInstr.lean ====
section
/-! SUPPORT. Per instruction, as syntax: a well-formed instruction's frame has the fixed length of its opcode
(30_encoding.md R83, R91), and UNKNOWN's frame has that of none (R87). -/

namespace Sys2Proof.Laws.FrameShape

/-- The frame is one of R83 exactly when the instruction is not UNKNOWN. -/
def Statement (i : Instr) : Prop :=
  ∀ c : Config, c.Valid → i.wf c = true →
    (knownFrame c (encode c i) = true ↔ ∀ q, i ≠ .unknown q)

theorem initdev : Statement .initdev := by
  intro c _ _
  simp [encode, knownFrame, requestLength_opcInit]

theorem getver : Statement .getver := by
  intro c _ _
  simp [encode, knownFrame, requestLength_opcVersion]

theorem delapp : Statement .delapp := by
  intro c h _
  simp [encode, knownFrame, requestLength_opcDelete h]

theorem setaddr (addrHi addrLo : Byte) : Statement (.setaddr addrHi addrLo) := by
  intro c h _
  simp [encode, knownFrame, requestLength_opcSetaddr h]

theorem write (data : List Byte) (checksum : Byte) : Statement (.write data checksum) := by
  intro c h hw
  have hd : data.length = c.chunkN := by simpa [Instr.wf] using hw
  simp [encode, knownFrame, requestLength_opcWrite h, hd]

theorem exit : Statement .exit := by
  intro c h _
  simp [encode, knownFrame, requestLength_opcExit h]

theorem read (start length : Byte) : Statement (.read start length) := by
  intro c h hw
  have hf : c.featureRead = true := hw
  simp [encode, knownFrame, requestLength_opcRead h, hf]

theorem unknown (frame : List Byte) : Statement (.unknown frame) := by
  intro c _ hw
  have hk : knownFrame c frame = false := by simpa [Instr.wf] using hw
  simp [encode, hk]

end Sys2Proof.Laws.FrameShape
end

