-- ==== Sys2Proof/Laws/Supervisor.lean ====
section
/-! SUPPORT. The Supervisor's Tick, one equation per branch (43_supervisor.md R201, R204-R208). -/

namespace Sys2Proof.Machine

variable {s : State}

/-! ### Uninitialized -/

theorem sub_one_eq_zero {b : Byte} : b - 1 = 0 ↔ b = 1 := by
  constructor <;> intro h <;> bv_omega

/-- R203: with one init flag set and the literal reading, the tick only blinks. -/
theorem tickUninitialized_held (h : countdownRuns s = false) :
    tickUninitialized s = s.setIndicator (!s.indicator) := by
  have h' : countdownRuns (s.setIndicator (!s.indicator)) = false := h
  simp only [tickUninitialized, h', Bool.false_eq_true, if_false]

/-- R201: the blink and the count, before the last tick. -/
theorem tickUninitialized_counts (h : countdownRuns s = true) (hc : s.exitCountdown ≠ 1) :
    tickUninitialized s = (s.setIndicator (!s.indicator)).setExitCountdown (s.exitCountdown - 1) := by
  have h' : countdownRuns (s.setIndicator (!s.indicator)) = true := h
  have hc' : ¬ s.exitCountdown - 1 = 0 := fun e => hc (sub_one_eq_zero.1 e)
  simp only [tickUninitialized, h', if_true, State.setExitCountdown_exitCountdown,
    State.setIndicator_exitCountdown, hc', if_false]

/-- R202: the last tick hands off. -/
theorem tickUninitialized_timeout (h : countdownRuns s = true) (hc : s.exitCountdown = 1) :
    tickUninitialized s =
      handoff s.cfg.tplEntry ((s.setIndicator (!s.indicator)).setExitCountdown 0) := by
  have h' : countdownRuns (s.setIndicator (!s.indicator)) = true := h
  have h1 : (1 : Byte) - 1 = 0 := rfl
  simp only [tickUninitialized, h', if_true, State.setExitCountdown_exitCountdown,
    State.setIndicator_exitCountdown, hc, h1, State.setExitCountdown_cfg, State.setIndicator_cfg]

/-! ### Idle -/

theorem tickIdle_exit_ready (he : s.sr.exitRequested = true) (hr : s.sr.applicationReady = true) :
    tickIdle s = .next (handoff s.cfg.tplEntry s) := by
  rw [tickIdle, if_pos (by simp [he, hr])]

theorem tickIdle_exit_not_ready (he : s.sr.exitRequested = true) (hr : s.sr.applicationReady = false) :
    tickIdle s = eraseAndHandoff s := by
  rw [tickIdle, if_neg (by simp [hr]), if_pos he]

theorem tickIdle_delete (he : s.sr.exitRequested = false) (hd : s.sr.deleteFlashRequested = true) :
    tickIdle s = eraseAndHandoff s := by
  rw [tickIdle, if_neg (by simp [he]), if_neg (by simp [he]), if_pos hd]

theorem tickIdle_full (he : s.sr.exitRequested = false) (hd : s.sr.deleteFlashRequested = false)
    (hp : s.pageIndex = s.cfg.pageSize) : tickIdle s = pageFullCommit s := by
  rw [tickIdle, if_neg (by simp [he]), if_neg (by simp [he]), if_neg (by simp [hd]), if_pos hp]

theorem tickIdle_nothing (he : s.sr.exitRequested = false) (hd : s.sr.deleteFlashRequested = false)
    (hp : s.pageIndex ≠ s.cfg.pageSize) : tickIdle s = .next s := by
  rw [tickIdle, if_neg (by simp [he]), if_neg (by simp [he]), if_neg (by simp [hd]), if_neg hp]

/-- Everything a completed Idle tick can be: a handoff, an erase and a handoff, a commit, or nothing. -/
theorem tickIdle_cases {t : State} (h : tickIdle s = .next t) :
    (s.sr.exitRequested = true ∧ s.sr.applicationReady = true ∧ t = handoff s.cfg.tplEntry s) ∨
    (∃ u, eraseAll s = .next u ∧ t = handoff u.cfg.tplEntry u) ∨
    (s.pageIndex = s.cfg.pageSize ∧ s.sr.exitRequested = false ∧ s.sr.deleteFlashRequested = false ∧
      ∃ u, commitPage s.flashPageAddress s = .next u ∧
        t = (u.setFlashPageAddress (u.flashPageAddress + BitVec.ofNat 16 u.cfg.pageSize)).setPageIndex 0) ∨
    t = s := by
  cases he : s.sr.exitRequested with
  | true =>
    cases hr : s.sr.applicationReady with
    | true => rw [tickIdle_exit_ready he hr] at h; cases h; exact .inl ⟨rfl, rfl, rfl⟩
    | false =>
      rw [tickIdle_exit_not_ready he hr, eraseAndHandoff, andThen_eq_next] at h
      obtain ⟨u, hu, ht⟩ := h
      cases ht; exact .inr (.inl ⟨u, hu, rfl⟩)
  | false =>
    cases hd : s.sr.deleteFlashRequested with
    | true =>
      rw [tickIdle_delete he hd, eraseAndHandoff, andThen_eq_next] at h
      obtain ⟨u, hu, ht⟩ := h
      cases ht; exact .inr (.inl ⟨u, hu, rfl⟩)
    | false =>
      by_cases hp : s.pageIndex = s.cfg.pageSize
      · rw [tickIdle_full he hd hp, pageFullCommit, andThen_eq_next] at h
        obtain ⟨u, hu, ht⟩ := h
        cases ht; exact .inr (.inr (.inl ⟨hp, rfl, rfl, u, hu, rfl⟩))
      · rw [tickIdle_nothing he hd hp] at h; cases h; exact .inr (.inr (.inr rfl))

/-- Everything an Uninitialized tick can be: a blink, with or without a count, or the timeout (R201-R203). -/
theorem tickUninitialized_cases (s : State) : tickUninitialized s = s.setIndicator (!s.indicator) ∨
    (s.exitCountdown ≠ 1 ∧ tickUninitialized s =
      (s.setIndicator (!s.indicator)).setExitCountdown (s.exitCountdown - 1)) ∨
    (s.exitCountdown = 1 ∧ tickUninitialized s =
      handoff s.cfg.tplEntry ((s.setIndicator (!s.indicator)).setExitCountdown 0)) := by
  cases h : countdownRuns s
  · exact .inl (tickUninitialized_held h)
  · by_cases h1 : s.exitCountdown = 1
    · exact .inr (.inr ⟨h1, tickUninitialized_timeout h h1⟩)
    · exact .inr (.inl ⟨h1, tickUninitialized_counts h h1⟩)

end Sys2Proof.Machine
end

