-- ==== Sys2Proof/Laws/Trampoline.lean ====
section
/-! SUPPORT. The fields of a relative-jump word (30_encoding.md R88), and what a jump read from Flash does
(R89). -/

namespace Sys2Proof.Machine

@[simp] theorem dispOf_rjmpWord (c : Config) (k : Disp) : dispOf (rjmpWord c k) = k := by
  unfold dispOf rjmpWord
  apply BitVec.eq_of_getLsbD_eq
  intro i hi
  rw [BitVec.getLsbD_extractLsb', BitVec.getLsbD_append]
  simp [hi]

@[simp] theorem nibbleOf_rjmpWord (c : Config) (k : Disp) : nibbleOf (rjmpWord c k) = c.rjmpNibble := by
  unfold nibbleOf rjmpWord
  apply BitVec.eq_of_getLsbD_eq
  intro i hi
  rw [BitVec.getLsbD_extractLsb', BitVec.getLsbD_append]
  simp [hi]

/-- A relative-jump word that stands in Flash at word `W` sends the CPU to its target. -/
theorem jumpFrom_rjmpWord {c : Config} {m : Memory} {W k : Disp}
    (hlo : Memory.read m (2 * W.toNat) = some (wordBytes (rjmpWord c k)).lo)
    (hhi : Memory.read m (2 * W.toNat + 1) = some (wordBytes (rjmpWord c k)).hi) :
    Memory.jumpFrom c m W = some (target W k) := by
  simp [Memory.jumpFrom, Memory.wordAt, hlo, hhi]

/-- R9: the bootloader starts at word S. -/
theorem two_mul_wordS {c : Config} (h : c.Valid) : 2 * c.wordS.toNat = c.bootStart := by
  have h1 := h.bootStart_mod
  have h2 := h.bootStart_le
  have h3 : c.bootStart % 2 = 0 := by
    rcases h.pageSize_cases with e | e | e | e | e | e | e <;> rw [e] at h1 <;> omega
  simp [Config.wordS]; omega

/-- R9: the trampoline word stands at byte TPL_ENTRY, word S - 1. -/
theorem two_mul_wordS_sub_one {c : Config} (h : c.Valid) : 2 * (c.wordS - 1).toNat = c.bootStart - 2 := by
  have h1 := two_mul_wordS h
  have h2 := h.two_pages_le
  have h3 := h.pageSize_ge
  have h4 : (c.wordS - 1).toNat = c.wordS.toNat - 1 := by bv_omega
  omega

end Sys2Proof.Machine
end

