-- ==== Sys2Proof/Tests/Slice0.lean ====
section
/-! SUPPORT. Tests: the smoke tests of WellFormed, decoding, one step per instruction, and a witness for each
obligation's hypotheses. The expected values are those of 95_test_vectors.md (default geometry), or worked by
hand from the rules (the small geometry). -/

namespace Sys2Proof.Tests

open Sys2Proof.Machine

/-! ### Small states -/

/-- Pages of 4 bytes: page 0 at 0, an application page at 4, the trampoline page at 8, the bootloader at 12. -/
def small : Config := { Config.default with
  pageSize := 4
  flashSize := 16
  bootStart := 12
  chunkN := 2
  readMax := 3 }

def smallNvm : Nvm := { flash := [], stage := [0, 0], busy := false, neverReady := false }

/-- Uninitialized, right after reset, with the buffer `0F C0 02 03`. -/
def fresh : State := State.afterReset small [0x0F, 0xC0, 2, 3] smallNvm

/-- Idle, with the given fill index and waiting events. -/
def idle (index : Nat) (events : List Event) : State :=
  { fresh with sr := ⟨true, true, false, true, false⟩, pageIndex := index, events := events }

/-- Word 0 holds the boot vector of the small geometry: 0xC005, a jump to word 6. -/
def booted (s : State) : State := s.setNvm { s.nvm with flash := [(0, 0x05), (1, 0xC0)] }

/-- A field of the next state. -/
def after {α : Type} (o : Host.Outcome State Fault Refusal) (f : State → α) : Option α :=
  match o with
  | .next s => some (f s)
  | .fault _ => none
  | .refused _ => none

theorem small_valid : small.Valid := by decide

theorem default_valid : Config.default.Valid := by decide

/-! ### WellFormed refuses -/

theorem test_wf_write_short : (Instr.write [1, 2, 3] 6).wf Config.default = false := by decide

theorem test_wf_read_feature_off :
    (Instr.read 0 4).wf { Config.default with featureRead := false } = false := by decide

theorem test_wf_unknown_known_frame : (Instr.unknown [0x84, 0, 0]).wf Config.default = false := by decide

/-! ### Decoding (95_test_vectors.md 2.1) -/

theorem test_decode_initdev : decode Config.default [0x81] = .initdev := by decide

theorem test_decode_getver : decode Config.default [0x82] = .getver := by decide

theorem test_decode_delapp : decode Config.default [0x83] = .delapp := by decide

theorem test_decode_setaddr : decode Config.default [0x84, 0x12, 0x34] = .setaddr 0x12 0x34 := by decide

theorem test_decode_write : decode Config.default [0x85, 1, 2, 3, 4, 5, 6, 7, 8, 0x24] =
    .write [1, 2, 3, 4, 5, 6, 7, 8] 0x24 := by decide

theorem test_decode_exit : decode Config.default [0x86] = .exit := by decide

theorem test_decode_read : decode Config.default [0x87, 0, 4] = .read 0 4 := by decide

theorem test_decode_read_feature_off :
    decode { Config.default with featureRead := false } [0x87, 0, 4] = .unknown [0x87, 0, 4] := by decide

theorem test_decode_checksum_missing : decode Config.default [0x85, 1, 2, 3, 4, 5, 6, 7, 8] =
    .unknown [0x85, 1, 2, 3, 4, 5, 6, 7, 8] := by decide

/-- The rows of the opcode table as words: the operand bytes are zeros. -/
theorem test_table_words :
    decodeTableWord 8 0x81 = some .initdev ∧
    decodeTableWord 8 0x82 = some .getver ∧
    decodeTableWord 8 0x83 = some .delapp ∧
    decodeTableWord 8 0x84 = some (.setaddr 0 0) ∧
    decodeTableWord 8 0x85 = some (.write [0, 0, 0, 0, 0, 0, 0, 0] 0) ∧
    decodeTableWord 8 0x86 = some .exit ∧
    decodeTableWord 8 0x87 = some (.read 0 0) ∧
    decodeTableWord 8 0x00 = some (.unknown [0]) := by decide

/-! ### One step of each instruction (95_test_vectors.md 2.2) -/

/-- D-1. -/
theorem test_step_initdev : after (step (State.reset.withFetchWord 8 0x81))
    (fun t => (t.sr.toByte, t.reply)) = some (0x09, [0x7E]) := by decide

/-- D-3. -/
theorem test_step_getver : after (step (State.reset.withFetchWord 8 0x82))
    (fun t => (t.sr.toByte, t.reply)) =
    some (0x0A, [0x7D, 0x54, 0x4D, 0x4E, 0x01, 0x00, 0x1A, 0x40]) := by decide

/-- D-5. -/
theorem test_step_delapp : after (step (State.reset.withFetchWord 8 0x83))
    (fun t => (t.sr.toByte, t.reply)) = some (0x0C, [0x7C]) := by decide

/-- D-4. -/
theorem test_step_exit : after (step (State.reset.withFetchWord 8 0x86))
    (fun t => (t.sr.toByte, t.reply)) = some (0x18, [0x79]) := by decide

/-- D-7: aligned down; the sum is of the bytes as received. -/
theorem test_setaddr_aligns : after (exec (.setaddr 0x12 0x34) State.reset)
    (fun t => (t.flashPageAddress, t.reply)) = some (0x1200, [0x7B, 0x46]) := by decide

/-- D-9: the sum wraps. -/
theorem test_setaddr_top : after (exec (.setaddr 0xFF 0xFF) State.reset)
    (fun t => (t.flashPageAddress, t.reply)) = some (0xFFC0, [0x7B, 0xFE]) := by decide

/-- D-12: the checksum wraps. -/
theorem test_write_wraps : after (exec (.write (List.replicate 8 0xFF) 0xF8) State.reset)
    (fun t => (t.pageIndex, t.sr.toByte, t.reply)) = some (8, 0x08, [0x7A, 0xF8]) := by decide

/-- D-14: a mismatch still stores the bytes. -/
theorem test_write_mismatch : after (exec (.write [1, 2, 3, 4, 5, 6, 7, 8] 0x25) State.reset)
    (fun t => (t.pageIndex, t.sr.toByte, t.pb.take 8, t.reply)) =
    some (8, 0x04, [1, 2, 3, 4, 5, 6, 7, 8], [0x7A, 0x24]) := by decide

/-- D-17. -/
theorem test_read_slice :
    after (exec (.read 0 4) (State.reset.setPb ([1, 2, 3, 4] ++ List.replicate 60 0)))
    (fun t => t.reply) = some [0x78, 1, 2, 3, 4, 0x0A] := by decide

/-- `READ 255, 2`: the range is an integer sum, with no wrap. -/
theorem test_read_no_wrap : after (exec (.read 255 2) State.reset) (fun t => t.reply) = some [0xFF] := by
  decide

theorem test_unknown_per_byte : after (exec (.unknown [0x42, 0x10, 0x20]) State.reset)
    (fun t => t.reply) = some [0xFF, 0xFF, 0xFF] := by decide

/-- Known opcode, wrong length: InitStep1 is not set. -/
theorem test_unknown_malformed :
    after (step (State.reset.setEvents [.receive [0x81, 0x00]]))
    (fun t => (t.sr.toByte, t.reply)) = some (0x08, [0xFF, 0xFF]) := by decide

/-! ### The trampoline (95_test_vectors.md 2.3) -/

theorem test_trampoline_vectors :
    trampoline Config.default 0xFF 0xFF = ⟨0xE0, 0xC2⟩ ∧
    trampoline Config.default 0x0F 0xC0 = ⟨0xF0, 0xC2⟩ ∧
    trampoline Config.default 0x7F 0xC8 = ⟨0x60, 0xCB⟩ ∧
    trampoline Config.default 0x1E 0xCD = ⟨0xFF, 0xCF⟩ ∧
    trampoline Config.default 0xFE 0xCF = ⟨0xDF, 0xC2⟩ ∧
    trampoline Config.default 0x34 0x12 = ⟨0x15, 0xC5⟩ := by decide

theorem test_boot_vector : bootVector Config.default = ⟨0x1F, 0xCD⟩ := by decide

/-! ### The regions of R51, at their boundaries -/

theorem test_regions :
    regionOf Config.default 0x0000 = some .application ∧
    regionOf Config.default 0x19FF = some .application ∧
    regionOf Config.default 0x1A00 = some .trampolinePage ∧
    regionOf Config.default 0x1A3F = some .trampolinePage ∧
    regionOf Config.default 0x1A40 = some .bootloader ∧
    regionOf Config.default 0x1FFF = some .bootloader ∧
    regionOf Config.default 0x2000 = none := by decide

/-! ### The Flash Writer and the Supervisor, in the small geometry

There S = 6, so the boot vector is 0xC005, and the vector 0xC00F (target 0x010) gives the trampoline word
0xC00A: word 5 + 0xA + 1 is word 0x010. -/

theorem test_commit_page_zero : after (commitPage 0 fresh) (fun t => t.nvm.flash) =
    some [(0, 0x05), (1, 0xC0), (2, 2), (3, 3), (8, 0xFF), (9, 0xFF), (10, 0x0A), (11, 0xC0)] := by decide

/-- The trampoline page keeps the application's bytes but its last word, 0xCFFA at reset: a jump to word 0. -/
theorem test_commit_trampoline_page : after (commitPage 8 fresh) (fun t => t.nvm.flash) =
    some [(8, 0x0F), (9, 0xC0), (10, 0xFA), (11, 0xCF)] := by decide

theorem test_commit_protected : after (commitPage 12 fresh) (fun t => (t.nvm.flash, t.outputs)) =
    some ([], []) := by decide

/-- Page 0, the trampoline page, then the one page between them. -/
theorem test_erase_all : after (eraseAll fresh) (fun t => t.nvm.flash) =
    some [(0, 0x05), (1, 0xC0), (2, 0xFF), (3, 0xFF), (4, 0xFF), (5, 0xFF), (6, 0xFF), (7, 0xFF),
      (8, 0xFF), (9, 0xFF), (10, 0xFA), (11, 0xCF)] := by decide

/-- The primitives of one ProgramPage, in order (95_test_vectors.md 2.4): the first fill word is 0xC00F. -/
theorem test_program_page_outputs : after (commitPage 4 fresh) (fun t => t.outputs) =
    some [.nvmErase 4, .nvmFill 0 0xC00F, .nvmFill 1 0x0302, .nvmWrite 4] := by decide

theorem test_program_sequence : programSequence small 4 [0x0F, 0xC0, 2, 3] =
    [.nvmErase 4, .nvmFill 0 0xC00F, .nvmFill 1 0x0302, .nvmWrite 4] := by decide

/-- P3: the last tick hands off. -/
theorem test_timeout : after (onTick (fresh.setExitCountdown 1))
    (fun t => (t.sup, t.handoffTarget, t.indicator)) = some (.terminal, some 10, true) := by decide

/-- 0xFFFC + 4 wraps to page 0, after a discarded commit. -/
theorem test_address_wraps : after (onTick ((idle 4 []).setFlashPageAddress 0xFFFC))
    (fun t => (t.flashPageAddress, t.pageIndex, t.outputs)) = some (0, 0, []) := by decide

/-- R93: an upload of the application page, as the frames the host sends. -/
theorem test_script_upload : Script.upload small 4 [1, 2, 3, 4] =
    [.receive [0x84, 0, 4], .request, .receive [0x85, 1, 2, 3], .request, .receive [0x85, 3, 4, 7], .request,
      .tick] := by decide

/-! ### Witnesses: for each obligation with hypotheses, a state and operands that meet them all -/

theorem fresh_inv : fresh.Inv := by
  refine ⟨small_valid, by decide, by decide, by decide, by decide, by decide, fun _ => by decide, by decide,
    by decide, fun hf => absurd rfl hf, by decide, by decide, List.Pairwise.nil, ?_⟩
  intro cell hc; exact absurd hc (by simp [fresh, smallNvm, State.afterReset])

/-- An Idle state with whole chunks in the buffer. -/
theorem idle_inv (index : Nat) (hle : index ≤ 4) (hm : index % 2 = 0) (events : List Event) :
    (idle index events).Inv where
  cfgValid := small_valid
  pbLength := fresh_inv.pbLength
  pageIndexLe := hle
  pageIndexChunks := hm
  addressAligned := fresh_inv.addressAligned
  handoffTarget := fresh_inv.handoffTarget
  countdownPositive := fresh_inv.countdownPositive
  countdownLe := fresh_inv.countdownLe
  notReadyDeletes := fun h => nomatch h
  faultFull := fun hf => absurd rfl hf
  stageLength := fresh_inv.stageLength
  notBusy := fresh_inv.notBusy
  flashWf := fresh_inv.flashWf
  flashBound := fresh_inv.flashBound

/-- `DecodeOfEncode`, at every constructor. -/
theorem witness_DecodeOfEncode : small.Valid ∧ Instr.initdev.wf small = true ∧ Instr.getver.wf small = true ∧
    Instr.delapp.wf small = true ∧ (Instr.setaddr 0xFF 0xFF).wf small = true ∧
    (Instr.write [0xFF, 0xFF] 0xFE).wf small = true ∧ Instr.exit.wf small = true ∧
    (Instr.read 255 255).wf small = true ∧ (Instr.unknown []).wf small = true ∧
    (Instr.unknown [0x84, 0x12]).wf small = true := by decide

/-- `EncodeOfDecode`, `UnknownExactlyOutsideTheFormats`, `TrampolineRoundTrip`, `BootVectorReachesBootloader`. -/
theorem witness_Valid : small.Valid ∧ Config.default.Valid := by decide

/-- `RequestFormats`: both values of FEATURE_READ, and a chunk's length. -/
theorem witness_RequestFormats : small.Valid ∧ { small with featureRead := false }.Valid ∧
    { small with featureRead := false }.featureRead = false ∧ ([1, 2] : List Byte).length = small.chunkN ∧
    1 < small.chunkN := by decide

theorem witness_StepRunsDecodedFrame :
    (idle 0 [.receive [0x81]]).cfg.Valid ∧ (idle 0 [.receive [0x81]]).events = [.receive [0x81]] ∧
    (idle 0 [.receive [0x81]]).fault = none ∧ (idle 0 [.receive [0x81]]).terminal = false ∧
    Instr.initdev.wf small = true ∧ encode small .initdev = [0x81] := by decide

theorem witness_InvalidConfigurationRefused :
    ¬ { fresh with cfg := { small with exitCount := 0 } }.cfg.Valid := by decide

/-- Faulted, and Terminal. -/
theorem witness_HaltedBlockIgnoresEvents :
    ((idle 4 [.tick]).setFault (some .pageOverflow)).cfg.Valid ∧
    ((idle 4 [.tick]).setFault (some .pageOverflow)).events = [.tick] ∧ Event.tick ≠ .reset ∧
    ((idle 4 [.tick]).setFault (some .pageOverflow)).fault ≠ none ∧
    ((idle 4 [.request]).setTerminal true).events = [.request] ∧
    ((idle 4 [.request]).setTerminal true).terminal = true := by decide

theorem witness_RequestTransmitsReply : (idle 0 [.request]).cfg.Valid ∧
    (idle 0 [.request]).events = [.request] ∧ (idle 0 [.request]).fault = none ∧
    (idle 0 [.request]).terminal = false := by decide

theorem witness_ResetRestoresTheBlock : (idle 4 [.reset]).cfg.Valid ∧
    (idle 4 [.reset]).events = [.reset] := by decide

/-- The clauses of `InitDeviceSetsInitStep1` and `GetVersionSetsInitStep2`. -/
theorem witness_InitDevice_GetVersion : (idle 0 []).cfg.Valid ∧ (idle 0 []).terminal = false ∧
    (idle 0 []).sr.initStep1 = true ∧ (idle 0 []).sr.initStep2 = true ∧
    State.reset.cfg = Config.default := by decide

/-- The clauses of `RequestExitSetsExitRequested` and `DeleteApplicationSetsDeleteFlashRequested`:
Uninitialized, Idle with a valid application, and Idle without. -/
theorem witness_RequestExit_DeleteApplication :
    fresh.fault = none ∧ fresh.sup = .uninitialized ∧ onTick fresh = .next (tickUninitialized fresh) ∧
    (idle 0 []).fault = none ∧ (idle 0 []).sup = .idle ∧ (idle 0 []).sr.applicationReady = true ∧
    (checksumMismatch (idle 0 [])).sup = .idle ∧ (checksumMismatch (idle 0 [])).fault = none ∧
    (checksumMismatch (idle 0 [])).sr.applicationReady = false ∧
    (setExitRequested (idle 0 [])).sup = .idle ∧ (setExitRequested (idle 0 [])).sr.exitRequested = true ∧
    (setExitRequested (idle 0 [])).sr.applicationReady = true :=
  ⟨rfl, rfl, rfl, rfl, rfl, rfl, rfl, rfl, rfl, rfl, rfl, rfl⟩

/-- `SetPageAddressStoresAlignedAddress`: the address is any pair of bytes. -/
theorem witness_SetPageAddress : fresh.cfg.Valid := small_valid

/-- `WritePageChunkAppends`: the last chunk of a page, with either checksum. -/
theorem witness_WritePageChunkAppends : ([1, 2] : List Byte).length = (idle 2 []).cfg.chunkN ∧
    (idle 2 []).pb.length = (idle 2 []).cfg.pageSize ∧
    (idle 2 []).pageIndex + (idle 2 []).cfg.chunkN = (idle 2 []).cfg.pageSize ∧
    sum8 [1, 2] = 3 ∧ sum8 [1, 2] ≠ 4 := by decide

/-- `ChecksumMismatchMarksInvalid`, at the last chunk of a page; and the state and data of its last clause. -/
theorem witness_ChecksumMismatchMarksInvalid : ([1, 2] : List Byte).length = (idle 2 []).cfg.chunkN ∧
    (idle 2 []).pb.length = (idle 2 []).cfg.pageSize ∧
    State.reset.pb.length = State.reset.cfg.pageSize ∧
    (idle 2 []).pageIndex + (idle 2 []).cfg.chunkN ≤ (idle 2 []).cfg.pageSize ∧ sum8 [1, 2] ≠ 4 ∧
    State.reset.cfg = Config.default ∧
    ([1, 2, 3, 4, 5, 6, 7, 8] : List Byte).length = State.reset.cfg.chunkN ∧
    State.reset.pageIndex + State.reset.cfg.chunkN ≤ State.reset.cfg.pageSize ∧
    sum8 [1, 2, 3, 4, 5, 6, 7, 8] ≠ 0x25 := by decide

/-- `PageOverflowFaults`: a full page, without a fault and with one; and the frame of its last clause. -/
theorem witness_PageOverflowFaults : (idle 4 []).fault = none ∧
    ((idle 4 []).setFault (some .pageOverflow)).fault ≠ none ∧
    (idle 4 []).cfg.pageSize < (idle 4 []).pageIndex + (idle 4 []).cfg.chunkN ∧
    (idle 4 [.receive [0x85, 1, 2, 3]]).events = [.receive [0x85, 1, 2, 3]] ∧
    decode small [0x85, 1, 2, 3] = .write [1, 2] 3 ∧ (idle 4 []).terminal = false := by decide

/-- `PageOverflowFaults`, a run that reaches a fault and its Reset: the step after it is not faulted, and no claim holds
of the run; and a claim that does hold, of a run with a tick in it. -/
theorem witness_PageOverflowRefutes :
    Host.Core.run core 1 (idle 4 [.receive [0x85, 1, 2, 3], .reset]) =
      .next ((idle 4 [.reset]).setFault (some .pageOverflow)) ∧
    ((idle 4 [.reset]).setFault (some .pageOverflow)).fault ≠ none ∧
    (∃ t, step ((idle 4 [.reset]).setFault (some .pageOverflow)) = .next t ∧ t.fault = none) ∧
    (idle 2 [.tick]).Claims 1 (fun t => t.events = []) := by
  refine ⟨?_, by decide, ?_, rfl, idle 2 [], ?_, rfl, rfl⟩
  · rw [run_of_step (t := (idle 4 [.reset]).setFault (some .pageOverflow))]
    · rfl
    · rw [step_of_event small_valid rfl]; rfl
  · rw [step_of_event small_valid rfl]; exact ⟨_, rfl, rfl⟩
  · rw [step_of_event small_valid rfl]; rfl

/-- `ReadPageChunkReturnsSlice`: the longest length up to the end of the page, and the last byte alone. -/
theorem witness_ReadPageChunkReturnsSlice : fresh.pb.length = fresh.cfg.pageSize ∧
    1 ≤ (3 : Byte).toNat ∧ (3 : Byte).toNat ≤ fresh.cfg.readMax ∧
    (1 : Byte).toNat + (3 : Byte).toNat ≤ fresh.cfg.pageSize ∧
    1 ≤ (1 : Byte).toNat ∧ (1 : Byte).toNat ≤ fresh.cfg.readMax ∧
    (3 : Byte).toNat + (1 : Byte).toNat ≤ fresh.cfg.pageSize := by decide

/-- `ReadPageChunkRejectsRange`: each of its three ways, one past the boundary. -/
theorem witness_ReadPageChunkRejectsRange : (0 : Byte) = 0 ∧ fresh.cfg.readMax < (4 : Byte).toNat ∧
    fresh.cfg.pageSize < (2 : Byte).toNat + (3 : Byte).toNat := by decide

/-- `HandshakeCommandFrames`: every command it names. -/
theorem witness_HandshakeCommandFrames :
    (∃ t, exec .initdev fresh = .next t) ∧ (∃ t, exec .getver fresh = .next t) ∧
    (∃ t, exec .exit fresh = .next t) ∧ (∃ t, exec .delapp fresh = .next t) ∧
    (∃ t, exec (.unknown [0x42]) fresh = .next t) :=
  ⟨⟨_, rfl⟩, ⟨_, rfl⟩, ⟨_, rfl⟩, ⟨_, rfl⟩, ⟨_, rfl⟩⟩

/-- `PageCommandFrames`: a SetPageAddress, a chunk that fits, one that does not, a valid range and another. -/
theorem witness_PageCommandFrames :
    ([1, 2] : List Byte).length = fresh.cfg.chunkN ∧ fresh.pb.length = fresh.cfg.pageSize ∧
    (∃ t, exec (.setaddr 1 2) fresh = .next t) ∧ (∃ t, exec (.write [1, 2] 3) fresh = .next t) ∧
    (∃ t, exec (.write [1, 2] 3) (idle 4 []) = .next t) ∧
    (∃ t, exec (.read 1 3) fresh = .next t) ∧ (∃ t, exec (.read 2 3) fresh = .next t) :=
  ⟨rfl, rfl, ⟨_, rfl⟩, ⟨_, rfl⟩, ⟨_, rfl⟩, ⟨_, rfl⟩, ⟨_, rfl⟩⟩

/-- `ConditionsHaveTheirOutcomes`, the commands: every condition, the three bad ranges each one past its boundary
(the last range that is good raises none), and a chunk that does not fit with a wrong checksum (R239). -/
theorem witness_CommandConditions : fresh.fault = none ∧ (idle 4 []).fault = none ∧
    commandCondition (.unknown []) fresh = some .unknownCommand ∧
    commandCondition (.read 0 0) fresh = some .readRangeError ∧
    commandCondition (.read 0 4) fresh = some .readRangeError ∧
    commandCondition (.read 2 3) fresh = some .readRangeError ∧
    commandCondition (.read 1 3) fresh = none ∧
    commandCondition (.write [1, 2] 4) (idle 4 []) = some .pageOverflow ∧
    commandCondition (.write [1, 2] 4) fresh = some .checksumMismatch ∧
    commandCondition (.write [1, 2] 3) fresh = none ∧
    fresh.terminal = false ∧ eventCondition (.receive [0x42]) fresh = some .unknownCommand := by decide

/-- `ConditionsHaveTheirOutcomes`, the Ticks: the last tick and the one before it, the first protected address and the
page before it, a countdown that is held, and a Terminal and a faulted block. -/
theorem witness_TickConditions :
    (fresh.setExitCountdown 1).cfg.Valid ∧
    eventCondition .tick (fresh.setExitCountdown 1) = some .handshakeTimeout ∧
    eventCondition .tick (fresh.setExitCountdown 2) = none ∧
    ((idle 4 []).setFlashPageAddress 12).cfg.Valid ∧
    eventCondition .tick ((idle 4 []).setFlashPageAddress 12) = some .protectedWriteDiscarded ∧
    eventCondition .tick ((idle 4 []).setFlashPageAddress 8) = none ∧
    eventCondition .tick { setInitStep1 (fresh.setExitCountdown 1) with
      cfg := { small with partialInitTimeout := false } } = none ∧
    ((idle 4 []).setTerminal true).terminal = true ∧
    eventCondition (.receive [0x42]) ((idle 4 []).setTerminal true) = none ∧
    ((idle 4 []).setFault (some .pageOverflow)).fault ≠ none ∧
    eventCondition (.receive [0x42]) ((idle 4 []).setFault (some .pageOverflow)) = none := by decide

/-- The clauses of `EraseSetsThePage` and `WriteProgramsStagedWords`, for the page at 4, and
`FillStagesOneWord`. -/
theorem witness_Primitives : 3 < fresh.cfg.pageSize ∧ (3 < 4 ∧ 4 + fresh.cfg.pageSize ≤ 8) ∧
    fresh.nvm.stage[1]? = some 0 ∧ 4 + 2 * fresh.nvm.stage.length ≤ 8 ∧ 1 < fresh.nvm.stage.length ∧
    0 ≠ 1 := by decide

theorem witness_ProgramPageNetEffect : fresh.cfg.Valid ∧ fresh.nvm.neverReady = false ∧
    fresh.nvm.stage.length = fresh.cfg.pageSize / 2 ∧
    ([1, 2, 3, 4] : List Byte).length = fresh.cfg.pageSize := by decide

/-- The last page below the bootloader. -/
theorem witness_ControllerHangStopsCommits :
    (fresh.setNvm { smallNvm with neverReady := true }).cfg.Valid ∧
    (fresh.setNvm { smallNvm with neverReady := true }).nvm.neverReady = true ∧
    (pageBase small 11).toNat < small.bootStart := by decide

theorem witness_TrampolineIgnoresNibble :
    (0xC0 : Byte).extractLsb' 0 4 = (0x10 : Byte).extractLsb' 0 4 ∧ (0xC0 : Byte) ≠ 0x10 := by decide

/-- Every address of page 0 has the base 0. -/
theorem witness_CommitPageZero : (idle 4 []).Inv ∧ (idle 4 []).nvm.neverReady = false ∧
    pageBase (idle 4 []).cfg 3 = 0 ∧ (idle 4 []).pb[0]? = some 0x0F ∧ (idle 4 []).pb[1]? = some 0xC0 :=
  ⟨idle_inv 4 (by decide) (by decide) [], by decide⟩

theorem witness_CommitTrampolinePage : (idle 4 []).Inv ∧ (idle 4 []).nvm.neverReady = false ∧
    (pageBase (idle 4 []).cfg 8).toNat = (idle 4 []).cfg.tplPage :=
  ⟨idle_inv 4 (by decide) (by decide) [], by decide⟩

theorem witness_CommitOtherPage : (idle 4 []).Inv ∧ (idle 4 []).nvm.neverReady = false ∧
    pageBase (idle 4 []).cfg 7 ≠ 0 ∧ (pageBase (idle 4 []).cfg 7).toNat < (idle 4 []).cfg.tplPage :=
  ⟨idle_inv 4 (by decide) (by decide) [], by decide⟩

/-- The first protected address, and the whole of the Tick's clause. -/
theorem witness_ProtectedCommitDiscarded :
    ((idle 4 [.tick]).setFlashPageAddress 12).cfg.Valid ∧
    small.bootStart ≤ (pageBase small ((idle 4 [.tick]).setFlashPageAddress 12).flashPageAddress).toNat ∧
    ((idle 4 [.tick]).setFlashPageAddress 12).events = [.tick] ∧
    ((idle 4 [.tick]).setFlashPageAddress 12).fault = none ∧
    ((idle 4 [.tick]).setFlashPageAddress 12).sup = .idle ∧
    ((idle 4 [.tick]).setFlashPageAddress 12).sr.exitRequested = false ∧
    ((idle 4 [.tick]).setFlashPageAddress 12).sr.deleteFlashRequested = false ∧
    ((idle 4 [.tick]).setFlashPageAddress 12).pageIndex = small.pageSize := by decide

theorem witness_EraseAllEndState : (idle 2 []).Inv ∧ (idle 2 []).nvm.neverReady = false :=
  ⟨idle_inv 2 (by decide) (by decide) [], by decide⟩

/-- `UninitializedTick`: the countdown held, running, and at its last tick. -/
theorem witness_UninitializedTick :
    (fresh.setEvents [.tick]).cfg.Valid ∧ (fresh.setEvents [.tick]).events = [.tick] ∧
    (fresh.setEvents [.tick]).fault = none ∧ (fresh.setEvents [.tick]).sup = .uninitialized ∧
    (fresh.setEvents [.tick]).cfg.partialInitTimeout = true ∧ (fresh.setEvents [.tick]).exitCountdown ≠ 1 ∧
    ((fresh.setEvents [.tick]).setExitCountdown 1).exitCountdown = 1 ∧
    { setInitStep1 (fresh.setEvents [.tick]) with cfg := { small with partialInitTimeout := false } }.cfg.Valid ∧
    { setInitStep1 (fresh.setEvents [.tick]) with
      cfg := { small with partialInitTimeout := false } }.sup = .uninitialized ∧
    { setInitStep1 (fresh.setEvents [.tick]) with
      cfg := { small with partialInitTimeout := false } }.sr.initStep1 = true := by decide

theorem witness_TimeoutHandsOff : (fresh.setEvents [.tick, .tick, .tick]).cfg.Valid ∧
    fresh.fault = none ∧ fresh.terminal = false ∧ fresh.sr.initStep1 = false ∧ fresh.sr.initStep2 = false ∧
    fresh.exitCountdown ≠ 0 ∧
    (fresh.setEvents [.tick, .tick, .tick]).events = List.replicate fresh.exitCountdown.toNat .tick ++ [] ∧
    2 < fresh.exitCountdown.toNat := by decide

theorem witness_HandshakeInEitherOrder : fresh.cfg.Valid ∧ fresh.fault = none ∧ fresh.terminal = false ∧
    fresh.sr.initStep1 = false ∧ fresh.sr.initStep2 = false ∧
    (fresh.setEvents [.receive [0x81], .receive [0x82]]).events =
      [.receive [small.opcInit], .receive [small.opcVersion]] ∧
    (fresh.setEvents [.receive [0x82], .receive [0x81]]).events =
      [.receive [small.opcVersion], .receive [small.opcInit]] := by decide

/-- Exit, with a delete request and a full buffer as well. -/
theorem witness_ExitWithApplicationHandsOff :
    (setExitRequested (setDeleteFlashRequested (idle 4 [.tick]))).cfg.Valid ∧
    (setExitRequested (setDeleteFlashRequested (idle 4 [.tick]))).events = [.tick] ∧
    (setExitRequested (setDeleteFlashRequested (idle 4 [.tick]))).fault = none ∧
    (setExitRequested (setDeleteFlashRequested (idle 4 [.tick]))).sup = .idle ∧
    (setExitRequested (setDeleteFlashRequested (idle 4 [.tick]))).sr.exitRequested = true ∧
    (setExitRequested (setDeleteFlashRequested (idle 4 [.tick]))).sr.applicationReady = true := by decide

/-- The invariant does not say which flags are set, but for ApplicationReady. -/
theorem inv_setSr {s : State} (h : s.Inv) (r : StatusRegister)
    (hr : r.applicationReady = false → r.deleteFlashRequested = true) : (s.setSr r).Inv :=
  { h with notReadyDeletes := hr }

theorem witness_ExitWithoutApplicationErases :
    (setExitRequested (checksumMismatch (idle 2 [.tick]))).Inv ∧
    (setExitRequested (checksumMismatch (idle 2 [.tick]))).nvm.neverReady = false ∧
    (setExitRequested (checksumMismatch (idle 2 [.tick]))).events = [.tick] ∧
    (setExitRequested (checksumMismatch (idle 2 [.tick]))).fault = none ∧
    (setExitRequested (checksumMismatch (idle 2 [.tick]))).sup = .idle ∧
    (setExitRequested (checksumMismatch (idle 2 [.tick]))).sr.exitRequested = true ∧
    (setExitRequested (checksumMismatch (idle 2 [.tick]))).sr.applicationReady = false ∧
    small.erased = 0xFF :=
  ⟨inv_setSr (inv_setSr (idle_inv 2 (by decide) (by decide) [.tick]) _ (by decide)) _ (by decide), by decide⟩

theorem witness_DeleteErasesAndHandsOff :
    (setDeleteFlashRequested (idle 4 [.tick])).Inv ∧
    (setDeleteFlashRequested (idle 4 [.tick])).nvm.neverReady = false ∧
    (setDeleteFlashRequested (idle 4 [.tick])).events = [.tick] ∧
    (setDeleteFlashRequested (idle 4 [.tick])).fault = none ∧
    (setDeleteFlashRequested (idle 4 [.tick])).sup = .idle ∧
    (setDeleteFlashRequested (idle 4 [.tick])).sr.exitRequested = false ∧
    (setDeleteFlashRequested (idle 4 [.tick])).sr.deleteFlashRequested = true :=
  ⟨inv_setSr (idle_inv 4 (by decide) (by decide) [.tick]) _ (by decide), by decide⟩

theorem witness_FullPageCommits : (idle 4 [.tick]).Inv ∧ (idle 4 [.tick]).nvm.neverReady = false ∧
    (idle 4 [.tick]).events = [.tick] ∧ (idle 4 [.tick]).fault = none ∧ (idle 4 [.tick]).sup = .idle ∧
    (idle 4 [.tick]).sr.exitRequested = false ∧ (idle 4 [.tick]).sr.deleteFlashRequested = false ∧
    (idle 4 [.tick]).pageIndex = (idle 4 [.tick]).cfg.pageSize :=
  ⟨idle_inv 4 (by decide) (by decide) [.tick], by decide⟩

/-- One chunk short of a full page. -/
theorem witness_IdleTickWithoutWork : (idle 2 [.tick]).cfg.Valid ∧ (idle 2 [.tick]).events = [.tick] ∧
    (idle 2 [.tick]).fault = none ∧ (idle 2 [.tick]).sup = .idle ∧
    (idle 2 [.tick]).sr.exitRequested = false ∧ (idle 2 [.tick]).sr.deleteFlashRequested = false ∧
    (idle 2 [.tick]).pageIndex ≠ (idle 2 [.tick]).cfg.pageSize := by decide

/-- A tick that commits completes. -/
theorem full_page_step : ∃ t, step (idle 4 [.tick]) = .next t := by
  rw [step_of_event small_valid rfl]
  exact ⟨_, rfl⟩

/-- `StepKeepsInvariant`, `BootloaderRegionNeverChanges` (its second half: `witness_ProtectedCommitDiscarded`),
`ConfigurationNeverChanges`: a step that commits. -/
theorem witness_StepKeepsInvariant : (idle 4 [.tick]).Inv ∧ ∃ t, step (idle 4 [.tick]) = .next t :=
  ⟨idle_inv 4 (by decide) (by decide) [.tick], full_page_step⟩

/-- `ResetAlwaysEntersBootloader`: an Idle tick that commits a page to page 0, over the boot vector. -/
theorem witness_ResetAlwaysEntersBootloader : (booted (idle 4 [.tick])).Inv ∧
    (booted (idle 4 [.tick])).BootVectorPlaced ∧ (booted (idle 4 [.tick])).flashPageAddress = 0 ∧
    ∃ t, step (booted (idle 4 [.tick])) = .next t ∧ t.pageIndex = 0 := by
  refine ⟨{ idle_inv 4 (by decide) (by decide) [.tick] with flashWf := by decide, flashBound := by decide },
    ⟨rfl, rfl⟩, rfl, ?_⟩
  rw [step_of_event small_valid rfl]
  exact ⟨_, rfl, rfl⟩

/-- `FlagsAreSticky`, `TerminalAndFaultEndByResetAlone`: a tick that commits. -/
theorem witness_FlagsAreSticky : (idle 4 [.tick]).events = [.tick] ∧ Event.tick ≠ .reset ∧
    (∃ t, step (idle 4 [.tick]) = .next t) ∧ (idle 4 [.tick]).sr.initStep1 = true ∧
    (idle 4 [.tick]).sr.initStep2 = true ∧ (idle 4 [.tick]).sup = .idle ∧
    (setExitRequested (setDeleteFlashRequested (idle 4 [.tick]))).sr.exitRequested = true ∧
    (setDeleteFlashRequested (idle 4 [.tick])).sr.deleteFlashRequested = true ∧
    (checksumMismatch (idle 4 [.tick])).sr.applicationReady = false :=
  ⟨rfl, by decide, full_page_step, by decide⟩

/-- `OnlyOwnCommandsSetFlags`: each flag's own command, taken from a state where the flag is not yet so; a chunk with
a wrong checksum that fits, and one that does not. -/
theorem witness_OnlyOwnCommandsSetFlags : fresh.halted = false ∧ (idle 0 []).halted = false ∧
    fresh.sr = ⟨false, false, false, true, false⟩ ∧ (Event.receive [0x81]) ≠ .reset ∧
    after (step (fresh.setEvents [.receive [0x81]])) (fun t => t.sr.initStep1) = some true ∧
    after (step (fresh.setEvents [.receive [0x82]])) (fun t => t.sr.initStep2) = some true ∧
    after (step (fresh.setEvents [.receive [0x83]])) (fun t => t.sr.deleteFlashRequested) = some true ∧
    after (step (fresh.setEvents [.receive [0x86]])) (fun t => t.sr.exitRequested) = some true ∧
    decode small [0x85, 1, 2, 4] = .write [1, 2] 4 ∧ sum8 [1, 2] ≠ 4 ∧
    (idle 2 []).pageIndex + small.chunkN ≤ small.pageSize ∧
    after (step (idle 2 [.receive [0x85, 1, 2, 4]])) (fun t => t.sr) = some ⟨true, true, true, false, false⟩ ∧
    ¬ (idle 4 []).pageIndex + small.chunkN ≤ small.pageSize ∧
    after (step (idle 4 [.receive [0x85, 1, 2, 4]])) (fun t => t.sr) = some ⟨true, true, false, true, false⟩ := by
  decide

/-- `OnlyIdleTicksChangeFlash`: a tick outside Idle, a tick of a faulted block, a frame, a Request and a Reset. -/
theorem witness_OnlyIdleTicksChangeFlash :
    (∃ t, step (fresh.setEvents [.tick]) = .next t) ∧
    (∃ t, step ((idle 4 [.tick]).setFault (some .pageOverflow)) = .next t) ∧
    (∃ t, step (idle 4 [.receive [0x83]]) = .next t) ∧ (∃ t, step (idle 4 [.request]) = .next t) ∧
    (∃ t, step (idle 4 [.reset]) = .next t) ∧
    fresh.sup ≠ .idle ∧ ((idle 4 [.tick]).setFault (some .pageOverflow)).fault ≠ none ∧
    Event.receive [0x83] ≠ .tick ∧ Event.request ≠ .tick ∧ Event.reset ≠ .tick := by
  refine ⟨?_, ?_, ?_, ?_, ?_, by decide⟩ <;> rw [step_of_event small_valid rfl] <;> exact ⟨_, rfl⟩

/-- The clauses of `TerminalAndFaultEndByResetAlone`: Terminal, faulted, and a chunk that overflows. -/
theorem witness_TerminalAndFault :
    step ((idle 4 [.tick]).setTerminal true) = .next ((idle 4 []).setTerminal true) ∧
    step ((idle 4 [.tick]).setFault (some .pageOverflow)) = .next ((idle 4 []).setFault (some .pageOverflow)) ∧
    step (idle 4 [.receive [0x85, 1, 2, 3]]) = .next ((idle 4 []).setFault (some .pageOverflow)) := by
  refine ⟨?_, ?_, ?_⟩ <;> rw [step_of_event small_valid rfl] <;> rfl

/-- `BlockNeverReadsFlash`: a step that completes, one that hangs and one that is refused. -/
theorem witness_BlockNeverReadsFlash : (∃ t, step (idle 4 [.tick]) = .next t) ∧
    step ((idle 4 [.tick]).setNvm { smallNvm with neverReady := true }) = .fault .controllerHang ∧
    step { fresh with cfg := { small with exitCount := 0 } } = .refused .invalidConfig := by
  refine ⟨full_page_step, ?_, step_of_invalid (by decide)⟩
  rw [step_of_event small_valid rfl]
  rfl

/-- The last chunk of a page, with a wrong checksum. -/
theorem witness_ChecksumMismatchThenTickErases :
    (idle 2 [.receive [0x85, 1, 2, 4], .tick]).Inv ∧
    (idle 2 [.receive [0x85, 1, 2, 4], .tick]).nvm.neverReady = false ∧
    (idle 2 [.receive [0x85, 1, 2, 4], .tick]).fault = none ∧
    (idle 2 [.receive [0x85, 1, 2, 4], .tick]).sup = .idle ∧ ([1, 2] : List Byte).length = small.chunkN ∧
    (idle 2 [.receive [0x85, 1, 2, 4], .tick]).pageIndex ≠ small.pageSize ∧ sum8 [1, 2] ≠ 4 ∧
    (idle 2 [.receive [0x85, 1, 2, 4], .tick]).events =
      [.receive (encode small (.write [1, 2] 4)), .tick] ∧ small.erased = 0xFF :=
  ⟨idle_inv 2 (by decide) (by decide) _, by decide⟩

theorem witness_UploadProgramsThePage :
    (idle 0 (Script.upload small 4 [1, 2, 3, 4])).Inv ∧
    (idle 0 (Script.upload small 4 [1, 2, 3, 4])).nvm.neverReady = false ∧
    (idle 0 (Script.upload small 4 [1, 2, 3, 4])).fault = none ∧
    (idle 0 (Script.upload small 4 [1, 2, 3, 4])).sup = .idle ∧
    (idle 0 (Script.upload small 4 [1, 2, 3, 4])).sr.exitRequested = false ∧
    (idle 0 (Script.upload small 4 [1, 2, 3, 4])).sr.deleteFlashRequested = false ∧
    (idle 0 (Script.upload small 4 [1, 2, 3, 4])).pageIndex = 0 ∧
    (4 : Word).toNat % small.pageSize = 0 ∧ (4 : Word) ≠ 0 ∧ (4 : Word).toNat < small.tplPage ∧
    ([1, 2, 3, 4] : List Byte).length = small.pageSize ∧
    (idle 0 (Script.upload small 4 [1, 2, 3, 4])).events = Script.upload small 4 [1, 2, 3, 4] :=
  ⟨idle_inv 0 (by decide) (by decide) _, by decide⟩

end Sys2Proof.Tests
end

/-! O51: the bootloader's own region (20_memory.md R64). A commit or an erase completes
only where the controller clears busy (R270), so its closed form names the pages it touches, and each is an aligned page
below BOOT_START. -/

namespace Sys2Proof.Machine

variable {s t u : State} {c : Config}

/-! ### Primitives below BOOT_START -/

/-- The address is a page's base, and the page ends at or below BOOT_START. -/
def PageBelowBoot (c : Config) (a : Nat) : Prop := a % c.pageSize = 0 ∧ a + c.pageSize ≤ c.bootStart

/-- Every erase and every write among the outputs goes to a page below BOOT_START. -/
def OutputsBelowBoot (c : Config) (os : List Output) : Prop :=
  ∀ a, .nvmErase a ∈ os ∨ .nvmWrite a ∈ os → PageBelowBoot c a

theorem pageBelowBoot_zero (hv : c.Valid) : PageBelowBoot c 0 :=
  ⟨Nat.zero_mod _, by have := hv.two_pages_le; omega⟩

theorem pageBelowBoot_tplPage (hv : c.Valid) : PageBelowBoot c c.tplPage :=
  ⟨hv.tplPage_mod, hv.tplPage_add.le⟩

theorem pageBelowBoot_pageBase (hv : c.Valid) {pa : Word} (h : (pageBase c pa).toNat < c.bootStart) :
    PageBelowBoot c (pageBase c pa).toNat :=
  ⟨pageBase_mod hv pa, hv.page_le_of_lt (pageBase_mod hv pa) hv.bootStart_mod h⟩

theorem outputsBelowBoot_nil : OutputsBelowBoot c [] := by simp [OutputsBelowBoot]

theorem OutputsBelowBoot.append {os ps : List Output} (ho : OutputsBelowBoot c os) (hp : OutputsBelowBoot c ps) :
    OutputsBelowBoot c (os ++ ps) := by
  rintro a (h | h) <;> rcases List.mem_append.1 h with h | h
  · exact ho a (.inl h)
  · exact hp a (.inl h)
  · exact ho a (.inr h)
  · exact hp a (.inr h)

theorem outputsBelowBoot_transmits (bs : List Byte) : OutputsBelowBoot c (bs.map .transmit) := by
  simp [OutputsBelowBoot]

theorem outputsBelowBoot_handoff (w : Word) : OutputsBelowBoot c [.handoff w] := by
  simp [OutputsBelowBoot]

/-- One `ProgramPage` erases and writes its own page alone (R61). -/
theorem outputsBelowBoot_programOutputs {a : Nat} (ha : PageBelowBoot c a) (img : List Byte) :
    OutputsBelowBoot c (programOutputs a img) := by
  intro b hb
  have hba : b = a := by simpa [programOutputs, fillsFrom_eq_map] using hb
  exact hba ▸ ha

/-- R158's loop erases pages from page 1 up to the trampoline page. -/
theorem outputsBelowBoot_eraseOutputs (hv : c.Valid) :
    OutputsBelowBoot c (eraseOutputs c.pageSize (c.tplPage / c.pageSize - 1) c.pageSize) := by
  intro a ha
  obtain ⟨i, hi, rfl⟩ : ∃ i, i < c.tplPage / c.pageSize - 1 ∧ c.pageSize + i * c.pageSize = a := by
    simpa [eraseOutputs_eq_map] using ha
  refine ⟨by simp, ?_⟩
  have hle : (i + 1) * c.pageSize ≤ c.tplPage - c.pageSize := erased_bytes hv ▸ Nat.mul_le_mul_right _ hi
  have hi' : (i + 1) * c.pageSize = i * c.pageSize + c.pageSize := Nat.succ_mul ..
  have := hv.tplPage_add
  have := hv.pageSize_le_tplPage
  omega

/-! ### What keeps the region -/

/-- From `s` to `t` every byte at or above BOOT_START reads as before, and the outputs given on the way erase and write
only pages below it. -/
structure BootRegionKept (s t : State) : Prop where
  flash : ∀ a, s.cfg.bootStart ≤ a → Memory.read t.nvm.flash a = Memory.read s.nvm.flash a
  outputs : ∃ os, t.outputs = s.outputs ++ os ∧ OutputsBelowBoot s.cfg os

/-- Where Flash and the outputs are the same, nothing happened to the region. -/
theorem BootRegionKept.of_eq (hf : t.nvm.flash = s.nvm.flash) (ho : t.outputs = s.outputs) : BootRegionKept s t :=
  ⟨fun a _ => by rw [hf], [], by simp [ho], outputsBelowBoot_nil⟩

theorem BootRegionKept.trans (h : BootRegionKept s u) (hc : u.cfg = s.cfg) (k : BootRegionKept u t) :
    BootRegionKept s t := by
  obtain ⟨hf, os, ho, hos⟩ := h
  obtain ⟨kf, ps, kp, kps⟩ := k
  rw [hc] at kf kps
  exact ⟨fun a ha => (kf a ha).trans (hf a ha), os ++ ps, by rw [kp, ho, List.append_assoc], hos.append kps⟩

theorem handoff_keepsBootRegion (w : Word) (s : State) : BootRegionKept s (handoff w s) :=
  ⟨fun _ _ => rfl, [.handoff w], rfl, outputsBelowBoot_handoff w⟩

/-- Programming a page below BOOT_START leaves every byte from there on as it was. -/
theorem read_programmed_boot {n : Nvm} {a x : Nat} {img : List Byte} (ha : PageBelowBoot c a)
    (hi : img.length = c.pageSize) (hx : c.bootStart ≤ x) :
    Memory.read (n.programmed a img).flash x = Memory.read n.flash x :=
  read_writeRange_out _ _ _ _ (.inr (by have := ha.2; omega))

/-- A completed commit keeps the region: it is discarded there (R153), and else programs its own page and, for page 0,
the trampoline page (R154, R155). -/
theorem commitPage_keepsBootRegion (hv : s.cfg.Valid) (hpb : s.pb.length = s.cfg.pageSize)
    (hst : s.nvm.stage.length = s.cfg.pageSize / 2) {pa : Word} (h : commitPage pa s = .next t) :
    BootRegionKept s t := by
  rcases Nat.lt_or_ge (pageBase s.cfg pa).toNat s.cfg.bootStart with hlt | hge
  · cases hr : s.nvm.neverReady with
    | true => rw [commitPage_hang hr hlt] at h; cases h
    | false =>
      by_cases h0 : pageBase s.cfg pa = 0
      · rw [commitPage_zero hv hr hpb hst h0] at h
        cases h
        have hz := pageBelowBoot_zero hv
        have ht := pageBelowBoot_tplPage hv
        refine ⟨fun a ha => ?_, _, List.append_assoc .., (outputsBelowBoot_programOutputs hz _).append
          (outputsBelowBoot_programOutputs ht _)⟩
        exact (read_programmed_boot ht (trampolineImage_length s) ha).trans
          (read_programmed_boot hz ((fixedPage0_length s).trans hpb) ha)
      · have hp := pageBelowBoot_pageBase hv hlt
        rw [commitPage_page hv hr hpb hst h0 hlt] at h
        cases h
        refine ⟨fun a ha => read_programmed_boot hp ?_ ha, _, rfl, outputsBelowBoot_programOutputs hp _⟩
        split
        · rw [withTrampolineWord_length, hpb]
        · exact hpb
  · rw [commitPage_protected hv hge] at h
    cases h
    exact .of_eq rfl rfl

/-- A completed eraseAll keeps the region: it touches the pages up to the trampoline page (R158, R159). -/
theorem eraseAll_keepsBootRegion (hv : s.cfg.Valid) (hst : s.nvm.stage.length = s.cfg.pageSize / 2)
    (h : eraseAll s = .next t) : BootRegionKept s t := by
  cases hr : s.nvm.neverReady with
  | true => rw [eraseAll_hang hv hr] at h; cases h
  | false =>
    rw [eraseAll_eq hv hr hst] at h
    cases h
    have hos := ((outputsBelowBoot_programOutputs (pageBelowBoot_zero hv) (fixedPage0 (erasedBuffer s))).append
      (outputsBelowBoot_programOutputs (pageBelowBoot_tplPage hv) (trampolineImage (erasedBuffer s)))).append
      (outputsBelowBoot_eraseOutputs hv)
    refine ⟨fun a ha => ?_, _, by simp only [State.setOutputs_outputs, List.append_assoc], hos⟩
    have := hv.pageSize_le_tplPage
    have := hv.tplPage_add
    exact (read_erasedFlash hv a).trans (by rw [if_neg (by omega), if_neg (by omega), if_neg (by omega)])

theorem exec_keepsBootRegion {i : Instr} (h : exec i s = .next t) : BootRegionKept s t := by
  rw [exec_changes h]
  exact .of_eq rfl rfl

theorem tickUninitialized_keepsBootRegion (s : State) : BootRegionKept s (tickUninitialized s) := by
  rcases tickUninitialized_cases s with h | ⟨_, h⟩ | ⟨_, h⟩ <;> rw [h]
  · exact .of_eq rfl rfl
  · exact .of_eq rfl rfl
  · exact .trans (u := (s.setIndicator (!s.indicator)).setExitCountdown 0) (.of_eq rfl rfl) rfl
      (handoff_keepsBootRegion _ _)

theorem tickIdle_keepsBootRegion (hv : s.cfg.Valid) (hpb : s.pb.length = s.cfg.pageSize)
    (hst : s.nvm.stage.length = s.cfg.pageSize / 2) (h : tickIdle s = .next t) : BootRegionKept s t := by
  rcases tickIdle_cases h with ⟨_, _, rfl⟩ | ⟨u, hu, rfl⟩ | ⟨_, _, _, u, hu, rfl⟩ | rfl
  · exact handoff_keepsBootRegion _ _
  · have hc : u.cfg = s.cfg := by rw [eraseAll_changes hu]
    exact (eraseAll_keepsBootRegion hv hst hu).trans hc (handoff_keepsBootRegion _ _)
  · have hc : u.cfg = s.cfg := by rw [commitPage_changes hu]
    exact (commitPage_keepsBootRegion hv hpb hst hu).trans hc (.of_eq rfl rfl)
  · exact .of_eq rfl rfl

/-- Reset keeps Flash (R41) and gives no output. -/
theorem onReset_keepsBootRegion (h : onReset s = .next t) : BootRegionKept s t := by
  cases h
  exact .of_eq rfl rfl

/-- Every completed step keeps the region: the event is taken off the queue, which leaves the region alone, and what it
then does is one of the cases above. -/
theorem step_keepsBootRegion (hi : s.Inv) (h : step s = .next t) : BootRegionKept s t := by
  rcases he : s.events with _ | ⟨e, es⟩
  · rw [step_of_no_event hi.cfgValid he] at h
    cases h
    exact .of_eq rfl rfl
  · have hpop : BootRegionKept s (s.setEvents es) := .of_eq rfl rfl
    refine hpop.trans rfl ?_
    obtain ⟨hv, hc⟩ := event_cases he h
    rcases hc with ⟨_, _, rfl⟩ | ⟨_, _, _, hx⟩ | ⟨_, _, rfl⟩ | ⟨_, _, _, rfl⟩ | ⟨_, _, _, hx⟩ | ⟨_, hx⟩
    · exact .of_eq rfl rfl
    · exact exec_keepsBootRegion hx
    · exact ⟨fun _ _ => rfl, _, rfl, outputsBelowBoot_transmits s.reply⟩
    · exact tickUninitialized_keepsBootRegion _
    · exact tickIdle_keepsBootRegion hv hi.pbLength hi.stageLength hx
    · exact onReset_keepsBootRegion hx

end Sys2Proof.Machine

section

open Sys2Proof.Machine

/-- Settles O51: every step keeps the region, and a commit into it is discarded (R153). -/
theorem bootloaderRegionNeverChanges : Obligations.BootloaderRegionNeverChanges := by
  refine ⟨fun s t hi h => ?_, fun s pa hv hp => commitPage_protected hv hp⟩
  obtain ⟨hf, os, ho, hos⟩ := step_keepsBootRegion hi h
  exact ⟨hf, os, ho, hos⟩

end

/-! O5: the request formats (30_encoding.md R83). The bytes of WritePageChunk stand behind its opcode in the order data,
checksum; the other formats are fixed lists. -/

namespace Sys2Proof

variable {c : Config}

/-! ### The positions of WritePageChunk -/

theorem encode_write_length (c : Config) (d : List Byte) (k : Byte) :
    (encode c (.write d k)).length = d.length + 2 := by
  simp [encode]

/-- The bytes behind the opcode are the data with the checksum after them. -/
theorem encode_write_getElem?_succ (c : Config) (d : List Byte) (k : Byte) (j : Nat) :
    (encode c (.write d k))[j + 1]? = (d ++ [k])[j]? :=
  List.getElem?_cons_succ

theorem encode_write_data (c : Config) {d : List Byte} (k : Byte) {j : Nat} (hj : j < d.length) :
    (encode c (.write d k))[1 + j]? = d[j]? := by
  rw [Nat.add_comm, encode_write_getElem?_succ, List.getElem?_append_left hj]

theorem encode_write_checksum (c : Config) (d : List Byte) (k : Byte) :
    (encode c (.write d k))[d.length + 1]? = some k := by
  rw [encode_write_getElem?_succ, List.getElem?_concat_length]

/-! ### READ without FEATURE_READ -/

/-- A frame that begins with ReadPageChunk's opcode is no other command's, whatever its length: the opcodes differ. So
without FEATURE_READ it is Unknown (R87). -/
theorem decode_opcRead_disabled (h : c.Valid) (hf : c.featureRead = false) (rest : List Byte) :
    decode c (c.opcRead :: rest) = .unknown (c.opcRead :: rest) := by
  have hne := h.opcode_ne
  simp [decode, hne, hf]

end Sys2Proof

section

open Sys2Proof

/-- Settles O5: the fixed formats are the encoder's own equations, WritePageChunk's positions count from the chunk's
length, and a READ frame needs FEATURE_READ. -/
theorem requestFormats : Obligations.RequestFormats := by
  intro c hv
  refine ⟨rfl, rfl, rfl, rfl, fun _ _ => rfl, fun d k hd => ?_, fun _ _ => rfl,
    fun hf start length => decode_opcRead_disabled hv hf [start, length]⟩
  rw [← hd]
  exact ⟨encode_write_length c d k, rfl, fun _ hj => encode_write_data c k hj, encode_write_checksum c d k⟩

end

/-! O14-O17 and O20: InitDevice, GetVersion, RequestExit, DeleteApplication and a chunk with a wrong checksum
(40_dispatcher.md R112-R115, R118). The first four set one flag and a reply. The two init commands have an equation in the
form of the statements, which applied to its own result says that they are idempotent. For the two requests the point is
which tick sees their flag: an Uninitialized tick reads the init flags alone (R203), an Idle one the request flags (R204). -/

namespace Sys2Proof.Machine

variable {s u : State}

/-! ### The init commands -/

theorem exec_initdev (s : State) : exec .initdev s = .next { s with
    sr := { s.sr with initStep1 := true }
    reply := [~~~s.cfg.opcInit] } := rfl

theorem hi8_ofNat (n : Nat) : hi8 (BitVec.ofNat 16 n) = BitVec.ofNat 8 (n / 256) := by
  apply BitVec.eq_of_toNat_eq
  simp only [hi8, BitVec.extractLsb'_toNat, BitVec.toNat_ofNat, Nat.shiftRight_eq_div_pow]
  omega

theorem lo8_ofNat (n : Nat) : lo8 (BitVec.ofNat 16 n) = BitVec.ofNat 8 n := by
  apply BitVec.eq_of_toNat_eq
  simp only [lo8, BitVec.extractLsb'_toNat, BitVec.toNat_ofNat, Nat.shiftRight_zero]
  omega

/-- R112, with the base address's two bytes as numbers (R54). -/
theorem exec_getver (s : State) : exec .getver s = .next { s with
    sr := { s.sr with initStep2 := true }
    reply := [~~~s.cfg.opcVersion, s.cfg.tag0, s.cfg.tag1, s.cfg.tag2, s.cfg.verMajor, s.cfg.verMinor,
      BitVec.ofNat 8 (s.cfg.bootStart / 256), BitVec.ofNat 8 s.cfg.bootStart] } := by
  rw [← hi8_ofNat, ← lo8_ofNat]
  rfl

/-! ### Other flags and another reply, the init flags as before -/

section

variable (r : StatusRegister) (xs : List Byte) (h1 : r.initStep1 = s.sr.initStep1) (h2 : r.initStep2 = s.sr.initStep2)
include h1 h2

/-- R33: of the flags, the Supervisor state reads the two init flags alone. -/
theorem sup_setSr_setReply : ((s.setSr r).setReply xs).sup = s.sup := by
  simp [State.sup, h1, h2]

/-- R203 reads the two init flags alone. -/
theorem countdownRuns_setSr_setReply : countdownRuns ((s.setSr r).setReply xs) = countdownRuns s := by
  simp [countdownRuns, h1, h2]

/-- R201-R203: an Uninitialized tick neither reads nor writes the reply and the request flags. -/
theorem tickUninitialized_setSr_setReply :
    tickUninitialized ((s.setSr r).setReply xs) = ((tickUninitialized s).setSr r).setReply xs := by
  have hr := countdownRuns_setSr_setReply r xs h1 h2
  cases hc : countdownRuns s with
  | false =>
    rw [tickUninitialized_held (hr.trans hc), tickUninitialized_held hc]
    rfl
  | true =>
    by_cases he : s.exitCountdown = 1
    · rw [tickUninitialized_timeout (hr.trans hc) he, tickUninitialized_timeout hc he]
      rfl
    · rw [tickUninitialized_counts (hr.trans hc) he, tickUninitialized_counts hc he]
      rfl

theorem onTick_uninitialized_setSr_setReply (hf : s.fault = none) (hs : s.sup = .uninitialized)
    (h : onTick s = .next u) : onTick ((s.setSr r).setReply xs) = .next ((u.setSr r).setReply xs) := by
  rw [onTick_uninitialized hf hs] at h
  cases h
  rw [← tickUninitialized_setSr_setReply r xs h1 h2]
  exact onTick_uninitialized hf ((sup_setSr_setReply r xs h1 h2).trans hs)

theorem onTick_idle_setSr_setReply (hf : s.fault = none) (hs : s.sup = .idle) :
    onTick ((s.setSr r).setReply xs) = tickIdle ((s.setSr r).setReply xs) :=
  onTick_idle hf ((sup_setSr_setReply r xs h1 h2).trans hs)

end

/-! ### The Idle tick of a requested delete -/

/-- R204: only an exit with a valid application comes before a requested delete. -/
theorem tickIdle_delete_of_not_exit_ready (hd : s.sr.deleteFlashRequested = true)
    (h : s.sr.exitRequested = false ∨ s.sr.applicationReady = false) : tickIdle s = eraseAndHandoff s := by
  cases he : s.sr.exitRequested with
  | false => exact tickIdle_delete he hd
  | true => exact tickIdle_exit_not_ready he (h.resolve_left (by simp [he]))

/-! ### WritePageChunk -/

/-- R117, R118: a chunk that fits is stored, counted and answered whatever its checksum, which decides the flags alone. -/
theorem exec_write_fits (h : s.pageIndex + s.cfg.chunkN ≤ s.cfg.pageSize) (d : List Byte) (k : Byte) :
    exec (.write d k) s = .next { s with
      pb := storeAt s.pb s.pageIndex d
      pageIndex := s.pageIndex + d.length
      sr := if sum8 d = k then s.sr else { s.sr with applicationReady := false, deleteFlashRequested := true }
      reply := [~~~s.cfg.opcWrite, sum8 d] } := by
  simp only [exec, execWrite, if_neg (Nat.not_lt.2 h), appendChunk_eq, zero_add]
  split <;> rfl

/-- The chunk's bytes stand from the index on. -/
theorem storeAt_getElem?_add {pb d : List Byte} {i j : Nat} (h : i + d.length ≤ pb.length) (hj : j < d.length) :
    (storeAt pb i d)[i + j]? = d[j]? := by
  rw [storeAt_getElem? pb i d h, if_pos (by omega), Nat.add_sub_cancel_left]

end Sys2Proof.Machine

section

open Sys2Proof Sys2Proof.Machine

/-- Settles O14: the command's equation, at the state and at its result. -/
theorem initDeviceSetsInitStep1 : Obligations.InitDeviceSetsInitStep1 := by
  intro s t
  refine ⟨rfl, exec_initdev s, exec_initdev t, fun ht h2 => sup_eq_idle.2 ⟨ht, rfl, h2⟩, fun hc => ?_⟩
  simp only [t, hc]
  rfl

/-- Settles O15: the command's equation, at the state and at its result. -/
theorem getVersionSetsInitStep2 : Obligations.GetVersionSetsInitStep2 := by
  intro s t
  refine ⟨rfl, fun _ => ⟨exec_getver s, exec_getver t⟩, fun ht h1 => sup_eq_idle.2 ⟨ht, h1, rfl⟩, fun hc => ?_⟩
  simp only [t, hc]
  rfl

/-- Settles O16: the flag is no init flag, so the ticks are those of the same Supervisor state, and of them the Idle one
takes its first or its second branch. -/
theorem requestExitSetsExitRequested : Obligations.RequestExitSetsExitRequested := by
  intro s t
  have idle : s.fault = none → s.sup = .idle → onTick t = tickIdle t := onTick_idle_setSr_setReply t.sr t.reply rfl rfl
  refine ⟨rfl, rfl, fun hf hs u hu => onTick_uninitialized_setSr_setReply t.sr t.reply rfl rfl hf hs hu,
    fun hf hs ha => (idle hf hs).trans (tickIdle_exit_ready rfl ha),
    fun hf hs ha => (idle hf hs).trans (tickIdle_exit_not_ready rfl ha), fun hc => ?_⟩
  simp only [t, hc]
  rfl

/-- Settles O17: as for RequestExit, but an exit with a valid application comes first. -/
theorem deleteApplicationSetsDeleteFlashRequested : Obligations.DeleteApplicationSetsDeleteFlashRequested := by
  intro s t
  have idle : s.fault = none → s.sup = .idle → onTick t = tickIdle t := onTick_idle_setSr_setReply t.sr t.reply rfl rfl
  refine ⟨rfl, rfl, fun hf hs u hu => onTick_uninitialized_setSr_setReply t.sr t.reply rfl rfl hf hs hu,
    fun hf hs => ⟨fun he ha => (idle hf hs).trans (tickIdle_exit_ready he ha),
      fun h => (idle hf hs).trans (tickIdle_delete_of_not_exit_ready rfl h)⟩, fun hc => ?_⟩
  simp only [t, hc]
  rfl

/-- Settles O20: the equation of a chunk that fits, at the right checksum and at the wrong one, differs in the flags. -/
theorem checksumMismatchMarksInvalid : Obligations.ChecksumMismatchMarksInvalid := by
  intro s d k hd hpb hfit hk
  have hroom : s.pageIndex + d.length ≤ s.pb.length := by omega
  refine ⟨_, exec_write_fits hfit d (sum8 d), if_pos rfl, fun j hj => storeAt_getElem?_add hroom (hd ▸ hj),
    congrArg (s.pageIndex + ·) hd, rfl, ?_, fun hc hd8 => ?_⟩
  · rw [exec_write_fits hfit, if_neg hk]
  · simp only [hc, hd8]
    rfl

end

/-! O1-O4: decoding and encoding (30_encoding.md R83, R85, R87). A frame is one of the formats exactly when it is the
encoding of an instruction that is not Unknown; decoding gives that instruction back, and decodes any other frame as
Unknown. -/

namespace Sys2Proof

variable {c : Config}

theorem knownFrame_cons {op : Byte} {rest : List Byte} :
    knownFrame c (op :: rest) = true ↔ requestLength c op = some (rest.length + 1) := by
  simp [knownFrame]

/-- A frame of the formats is some instruction's (R83). -/
theorem exists_encode_of_knownFrame {q : List Byte} (h : knownFrame c q = true) :
    ∃ i : Instr, i.wf c = true ∧ (∀ p, i ≠ .unknown p) ∧ encode c i = q := by
  rcases q with _ | ⟨op, rest⟩
  · simp [knownFrame] at h
  rw [knownFrame_cons, requestLength] at h
  split_ifs at h with hver hini hex hdel hset hwr hrd <;> simp only [Option.some.injEq] at h
  · obtain rfl : rest = [] := List.length_eq_zero_iff.1 (by omega)
    exact ⟨.getver, rfl, by simp, by simp [encode, hver]⟩
  · obtain rfl : rest = [] := List.length_eq_zero_iff.1 (by omega)
    exact ⟨.initdev, rfl, by simp, by simp [encode, hini]⟩
  · obtain rfl : rest = [] := List.length_eq_zero_iff.1 (by omega)
    exact ⟨.exit, rfl, by simp, by simp [encode, hex]⟩
  · obtain rfl : rest = [] := List.length_eq_zero_iff.1 (by omega)
    exact ⟨.delapp, rfl, by simp, by simp [encode, hdel]⟩
  · obtain ⟨hi, lo, rfl⟩ : ∃ hi lo, rest = [hi, lo] := List.length_eq_two.1 (by omega)
    exact ⟨.setaddr hi lo, rfl, by simp, by simp [encode, hset]⟩
  · have hne : rest ≠ [] := by rintro rfl; simp at h
    refine ⟨.write rest.dropLast (rest.getLast hne), ?_, by simp, ?_⟩
    · simp [Instr.wf]; omega
    · rw [encode, List.dropLast_concat_getLast, hwr]
  · obtain ⟨hi, lo, rfl⟩ : ∃ hi lo, rest = [hi, lo] := List.length_eq_two.1 (by omega)
    exact ⟨.read hi lo, hrd.2, by simp, by simp [encode, hrd.1]⟩

/-- R85, R87: a frame outside the formats takes no branch of the decoder but the last. -/
theorem decode_of_not_knownFrame (hv : c.Valid) {q : List Byte} (h : knownFrame c q = false) :
    decode c q = .unknown q := by
  rcases q with _ | ⟨op, rest⟩
  · rfl
  have hlen : ∀ n, requestLength c op = some n → rest.length + 1 ≠ n := by
    rintro n hn rfl
    simp [knownFrame_cons.2 hn] at h
  simp only [decode]
  split_ifs with hver hini hex hdel hset hwr hrd
  · exact absurd (by omega) (hlen 1 (hver.1 ▸ requestLength_opcVersion))
  · exact absurd (by omega) (hlen 1 (hini.1 ▸ requestLength_opcInit))
  · exact absurd (by omega) (hlen 1 (hex.1 ▸ requestLength_opcExit hv))
  · exact absurd (by omega) (hlen 1 (hdel.1 ▸ requestLength_opcDelete hv))
  · exact absurd (by omega) (hlen 3 (hset.1 ▸ requestLength_opcSetaddr hv))
  · exact absurd (by omega) (hlen (c.chunkN + 2) (hwr.1 ▸ requestLength_opcWrite hv))
  · have hop := requestLength_opcRead hv
    rw [if_pos hrd.2.1, ← hrd.1] at hop
    exact absurd (by omega) (hlen 3 hop)
  · rfl

/-- The opcodes differ, so the decoder passes the branches before an instruction's own. -/
theorem decode_encode (hv : c.Valid) {i : Instr} (hw : i.wf c = true) : decode c (encode c i) = i := by
  have hne := hv.opcode_ne
  cases i with
  | initdev => simp [encode, decode, hne]
  | getver => simp [encode, decode]
  | delapp => simp [encode, decode, hne]
  | setaddr hi lo => simp [encode, decode, hne]
  | write d k =>
    have hd : d.length = c.chunkN := by simpa [Instr.wf] using hw
    simp [encode, decode, hne, ← hd]
  | exit => simp [encode, decode, hne]
  | read start length =>
    have hf : c.featureRead = true := hw
    simp [encode, decode, hne, hf]
  | unknown q =>
    have hk : knownFrame c q = false := by simpa [Instr.wf] using hw
    exact decode_of_not_knownFrame hv hk

theorem encode_decode (hv : c.Valid) (q : List Byte) : encode c (decode c q) = q ∧ (decode c q).wf c = true := by
  cases hk : knownFrame c q with
  | true =>
    obtain ⟨i, hw, _, rfl⟩ := exists_encode_of_knownFrame hk
    rw [decode_encode hv hw]
    exact ⟨rfl, hw⟩
  | false =>
    rw [decode_of_not_knownFrame hv hk]
    exact ⟨rfl, by simp [Instr.wf, hk]⟩

theorem decode_eq_unknown_iff (hv : c.Valid) (q : List Byte) :
    decode c q = .unknown q ↔ ¬ ∃ i : Instr, i.wf c = true ∧ (∀ p, i ≠ .unknown p) ∧ encode c i = q := by
  constructor
  · rintro hd ⟨i, hw, hi, rfl⟩
    exact hi _ ((decode_encode hv hw).symm.trans hd)
  · intro hn
    exact decode_of_not_knownFrame hv (Bool.eq_false_iff.2 fun hk => hn (exists_encode_of_knownFrame hk))

/-- The formats of R83, written out. -/
theorem exists_encode_iff_format (c : Config) (q : List Byte) :
    (∃ i : Instr, i.wf c = true ∧ (∀ p, i ≠ .unknown p) ∧ encode c i = q) ↔
      (q = [c.opcVersion] ∨ q = [c.opcInit] ∨ q = [c.opcExit] ∨ q = [c.opcDelete] ∨
        (∃ hi lo, q = [c.opcSetaddr, hi, lo]) ∨
        (∃ d k, d.length = c.chunkN ∧ q = c.opcWrite :: (d ++ [k])) ∨
        (c.featureRead = true ∧ ∃ start length, q = [c.opcRead, start, length])) := by
  constructor
  · rintro ⟨i, hw, hi, rfl⟩
    cases i with
    | unknown p => exact absurd rfl (hi p)
    | write d k =>
      have hd : d.length = c.chunkN := by simpa [Instr.wf] using hw
      exact .inr (.inr (.inr (.inr (.inr (.inl ⟨d, k, hd, rfl⟩)))))
    | read start length => exact .inr (.inr (.inr (.inr (.inr (.inr ⟨hw, start, length, rfl⟩)))))
    | _ => simp [encode]
  · rintro (rfl | rfl | rfl | rfl | ⟨hi, lo, rfl⟩ | ⟨d, k, hd, rfl⟩ | ⟨hf, start, length, rfl⟩)
    · exact ⟨.getver, rfl, by simp, rfl⟩
    · exact ⟨.initdev, rfl, by simp, rfl⟩
    · exact ⟨.exit, rfl, by simp, rfl⟩
    · exact ⟨.delapp, rfl, by simp, rfl⟩
    · exact ⟨.setaddr hi lo, rfl, by simp, rfl⟩
    · exact ⟨.write d k, by simp [Instr.wf, hd], by simp, rfl⟩
    · exact ⟨.read start length, hf, by simp, rfl⟩

end Sys2Proof

section

open Sys2Proof

/-- Settles O2: the opcodes are distinct and each format has its length. -/
theorem decodeOfEncode : Obligations.DecodeOfEncode :=
  fun _ _ hv hw => decode_encode hv hw

/-- Settles O3: a frame of the formats is an encoding, and any other is kept whole. -/
theorem encodeOfDecode : Obligations.EncodeOfDecode :=
  fun _ q hv => encode_decode hv q

/-- Settles O4: Unknown is what is no instruction's encoding. -/
theorem unknownExactlyOutsideTheFormats : Obligations.UnknownExactlyOutsideTheFormats :=
  fun c q hv => (decode_eq_unknown_iff hv q).trans (not_congr (exists_encode_iff_format c q))

/-- Settles O1: the ten frames, evaluated. -/
theorem defaultFramesDecode : Obligations.DefaultFramesDecode := by
  unfold Obligations.DefaultFramesDecode
  decide

end

/-! O50 and O52: what every step keeps. A completed commit or erase has a closed form (a controller that never clears busy
completes none, R270), so what it leaves in the buffer and the controller is known; both obligations read it off there. -/

namespace Sys2Proof.Machine

variable {s t u : State} {c : Config} {n : Nvm}

/-! ### What a completed commit or erase leaves in the buffer and the controller -/

/-- A completed commit was discarded (R153), or it was to page 0 (R151, R155), or it programmed its page alone (R154). -/
theorem commitPage_cases (hv : s.cfg.Valid) (hpb : s.pb.length = s.cfg.pageSize)
    (hst : s.nvm.stage.length = s.cfg.pageSize / 2) {pa : Word} (h : commitPage pa s = .next t) :
    (s.cfg.bootStart ≤ (pageBase s.cfg pa).toNat ∧ t = s) ∨
    (pageBase s.cfg pa = 0 ∧ t.pb = fixedPage0 s ∧
      t.nvm = (s.nvm.programmed 0 (fixedPage0 s)).programmed s.cfg.tplPage (trampolineImage s)) ∨
    (pageBase s.cfg pa ≠ 0 ∧ (pageBase s.cfg pa).toNat < s.cfg.bootStart ∧ t.pb.length = s.cfg.pageSize ∧
      t.nvm = s.nvm.programmed (pageBase s.cfg pa).toNat t.pb) := by
  rcases Nat.lt_or_ge (pageBase s.cfg pa).toNat s.cfg.bootStart with hlt | hge
  · cases hr : s.nvm.neverReady with
    | true => rw [commitPage_hang hr hlt] at h; cases h
    | false =>
      by_cases h0 : pageBase s.cfg pa = 0
      · rw [commitPage_zero hv hr hpb hst h0] at h
        cases h
        exact .inr (.inl ⟨h0, rfl, rfl⟩)
      · rw [commitPage_page hv hr hpb hst h0 hlt] at h
        cases h
        refine .inr (.inr ⟨h0, hlt, ?_, rfl⟩)
        simp only [State.setOutputs_pb, State.setNvm_pb, State.setPb_pb]
        split
        · rw [withTrampolineWord_length, hpb]
        · exact hpb
  · rw [commitPage_protected hv hge] at h
    cases h
    exact .inl ⟨hge, rfl⟩

/-- A completed eraseAll leaves the buffer as page 0 was committed, and the controller idle over the erased Flash (R158). -/
theorem eraseAll_result (hv : s.cfg.Valid) (hst : s.nvm.stage.length = s.cfg.pageSize / 2)
    (h : eraseAll s = .next t) : t.pb = fixedPage0 (erasedBuffer s) ∧
      t.nvm = { s.nvm with flash := erasedFlash s, stage := wordsOf (trampolineImage (erasedBuffer s)), busy := false } := by
  cases hr : s.nvm.neverReady with
  | true => rw [eraseAll_hang hv hr] at h; cases h
  | false =>
    rw [eraseAll_eq hv hr hst] at h
    cases h
    exact ⟨rfl, rfl⟩

/-! ### The controller's part of the invariant -/

/-- What the invariant says of the controller and of Flash. -/
structure Nvm.Sound (c : Config) (n : Nvm) : Prop where
  stageLength : n.stage.length = c.pageSize / 2
  notBusy : n.busy = false
  flashWf : Memory.wf n.flash
  flashBound : ∀ cell ∈ n.flash, cell.1 < c.flashSize

theorem State.Inv.nvmSound (hi : s.Inv) : s.nvm.Sound s.cfg :=
  ⟨hi.stageLength, hi.notBusy, hi.flashWf, hi.flashBound⟩

/-- A write below FLASH_SIZE puts no cell at or above it (R50). -/
theorem writeRange_bound {m : Memory} {a N : Nat} {bs : List Byte} (hm : ∀ cell ∈ m, cell.1 < N)
    (h : a + bs.length ≤ N) : ∀ cell ∈ Memory.writeRange m a bs, cell.1 < N := by
  intro cell hcell
  rcases mem_writeRange hcell with hold | hnew
  · exact hm cell hold
  · omega

theorem Nvm.Sound.programmed (h : n.Sound c) (hv : c.Valid) {a : Nat} (ha : PageBelowBoot c a) {img : List Byte}
    (hi : img.length = c.pageSize) : (n.programmed a img).Sound c where
  stageLength := by rw [Nvm.programmed, wordsOf_length, hi]
  notBusy := rfl
  flashWf := writeRange_wf h.flashWf a img
  flashBound := writeRange_bound h.flashBound (by have := ha.2; have := hv.bootStart_lt; omega)

/-- After eraseAll: two pages programmed, and the run of application pages between them erased. -/
theorem Nvm.Sound.erased (hi : s.nvm.Sound s.cfg) (hv : s.cfg.Valid) : Nvm.Sound s.cfg
    { s.nvm with flash := erasedFlash s, stage := wordsOf (trampolineImage (erasedBuffer s)), busy := false } := by
  have hzero := hi.programmed hv (pageBelowBoot_zero hv) (img := fixedPage0 (erasedBuffer s)) (by simp [erasedBuffer])
  have htpl := hzero.programmed hv (pageBelowBoot_tplPage hv) (img := trampolineImage (erasedBuffer s))
    (trampolineImage_length _)
  refine ⟨htpl.stageLength, rfl, ?_, ?_⟩ <;> simp only [erasedFlash] <;> split
  · exact htpl.flashWf
  · exact writeRange_wf htpl.flashWf _ _
  · exact htpl.flashBound
  · refine writeRange_bound htpl.flashBound ?_
    rw [List.length_replicate, erased_bytes hv]
    have := hv.pageSize_le_tplPage
    have := hv.tplPage_add
    have := hv.bootStart_lt
    omega

/-! ### Commit and erase keep the invariant -/

theorem State.Inv.of_commitChanges (hi : s.Inv) (h : CommitChanges s t) (hpb : t.pb.length = s.cfg.pageSize)
    (hn : t.nvm.Sound s.cfg) : t.Inv := by
  rw [h]
  exact { hi with
    pbLength := hpb
    stageLength := hn.stageLength
    notBusy := hn.notBusy
    flashWf := hn.flashWf
    flashBound := hn.flashBound }

theorem commitPage_keepsInv (hi : s.Inv) {pa : Word} (h : commitPage pa s = .next t) : t.Inv := by
  have hv := hi.cfgValid
  rcases commitPage_cases hv hi.pbLength hi.stageLength h with ⟨_, rfl⟩ | ⟨_, hpb, hn⟩ | ⟨_, hlt, hpb, hn⟩
  · exact hi
  · have hlen : (fixedPage0 s).length = s.cfg.pageSize := by rw [fixedPage0_length, hi.pbLength]
    refine hi.of_commitChanges (commitPage_changes h) (hpb ▸ hlen) (hn ▸ ?_)
    exact (hi.nvmSound.programmed hv (pageBelowBoot_zero hv) hlen).programmed hv (pageBelowBoot_tplPage hv)
      (trampolineImage_length s)
  · exact hi.of_commitChanges (commitPage_changes h) hpb
      (hn ▸ hi.nvmSound.programmed hv (pageBelowBoot_pageBase hv hlt) hpb)

theorem CommitChanges.cfg (h : CommitChanges s t) : t.cfg = s.cfg := by rw [h]

theorem CommitChanges.fault (h : CommitChanges s t) : t.fault = s.fault := by rw [h]

theorem eraseAll_keepsInv (hi : s.Inv) (h : eraseAll s = .next t) : t.Inv := by
  obtain ⟨hpb, hn⟩ := eraseAll_result hi.cfgValid hi.stageLength h
  exact hi.of_commitChanges (eraseAll_changes h) (by rw [hpb]; simp [erasedBuffer])
    (hn ▸ hi.nvmSound.erased hi.cfgValid)

/-! ### Each event keeps the invariant -/

theorem State.Inv.setEvents (hi : s.Inv) (es : List Event) : (s.setEvents es).Inv := { hi with }

/-- R209: the handoff of a block without a fault. -/
theorem handoff_keepsInv (hi : s.Inv) (hf : s.fault = none) : (handoff s.cfg.tplEntry s).Inv :=
  { hi with
    handoffTarget := rfl
    countdownPositive := fun ht => nomatch ht
    faultFull := fun hn => absurd hf hn }

/-- R208: the address goes to the next page, mod 2^16. -/
theorem nextPage_toNat (hv : c.Valid) (a : Word) :
    (a + BitVec.ofNat 16 c.pageSize).toNat = (a.toNat + c.pageSize) % 65536 := by
  have := hv.pageSize_le
  rw [BitVec.toNat_add, BitVec.toNat_ofNat, Nat.mod_eq_of_lt (a := c.pageSize) (by omega)]

theorem nextPage_mod (hv : c.Valid) {a : Word} (ha : a.toNat % c.pageSize = 0) :
    (a + BitVec.ofNat 16 c.pageSize).toNat % c.pageSize = 0 := by
  rw [nextPage_toNat hv]
  rcases hv.pageSize_cases with e | e | e | e | e | e | e <;> rw [e] at ha ⊢ <;> omega

/-- R208: after the commit of a full page, in a block without a fault. -/
theorem nextPage_keepsInv (hi : s.Inv) (hf : s.fault = none) :
    ((s.setFlashPageAddress (s.flashPageAddress + BitVec.ofNat 16 s.cfg.pageSize)).setPageIndex 0).Inv :=
  { hi with
    pageIndexLe := Nat.zero_le _
    pageIndexChunks := Nat.zero_mod _
    addressAligned := nextPage_mod hi.cfgValid hi.addressAligned
    faultFull := fun hn => absurd hf hn }

theorem tickIdle_keepsInv (hi : s.Inv) (hf : s.fault = none) (h : tickIdle s = .next t) : t.Inv := by
  rcases tickIdle_cases h with ⟨_, _, rfl⟩ | ⟨u, hu, rfl⟩ | ⟨_, _, _, u, hu, rfl⟩ | rfl
  · exact handoff_keepsInv hi hf
  · exact handoff_keepsInv (eraseAll_keepsInv hi hu) ((eraseAll_changes hu).fault.trans hf)
  · exact nextPage_keepsInv (commitPage_keepsInv hi hu) ((commitPage_changes hu).fault.trans hf)
  · exact hi

theorem tickUninitialized_keepsInv (hi : s.Inv) (hf : s.fault = none) (ht : s.terminal = false) :
    (tickUninitialized s).Inv := by
  have hpos : s.exitCountdown ≠ 0 := hi.countdownPositive ht
  have hle := hi.countdownLe
  rcases tickUninitialized_cases s with h | ⟨h1, h⟩ | ⟨_, h⟩ <;> rw [h]
  · exact { hi with }
  · exact { hi with
      countdownPositive := fun _ => mt sub_one_eq_zero.1 h1
      countdownLe := by
        have : (s.exitCountdown - 1).toNat ≤ s.exitCountdown.toNat := by bv_omega
        exact this.trans hle }
  · exact { hi with
      handoffTarget := rfl
      countdownPositive := fun ht => nomatch ht
      countdownLe := Nat.zero_le _
      faultFull := fun hn => absurd hf hn }

/-- R34: the countdown's reset value fits its byte. -/
theorem exitCount_toNat (hv : c.Valid) : (BitVec.ofNat 8 c.exitCount).toNat = c.exitCount := by
  have := hv.exitCount_le
  rw [BitVec.toNat_ofNat]
  omega

/-- R40: the reset values meet the invariant, over any buffer of one page and any sound controller. -/
theorem afterReset_inv (hv : c.Valid) {pb : List Byte} (hpb : pb.length = c.pageSize) (hn : n.Sound c) :
    (State.afterReset c pb n).Inv where
  cfgValid := hv
  pbLength := hpb
  pageIndexLe := Nat.zero_le _
  pageIndexChunks := Nat.zero_mod _
  addressAligned := Nat.zero_mod _
  handoffTarget := rfl
  countdownPositive := fun _ h => by
    have hpos := hv.exitCount_pos
    have h0 : (BitVec.ofNat 8 c.exitCount).toNat = 0 := congrArg BitVec.toNat h
    rw [exitCount_toNat hv] at h0
    omega
  countdownLe := (exitCount_toNat hv).le
  notReadyDeletes := fun h => nomatch h
  faultFull := fun h => absurd rfl h
  stageLength := hn.stageLength
  notBusy := hn.notBusy
  flashWf := hn.flashWf
  flashBound := hn.flashBound

theorem drawPage_length (s : State) : (drawPage s).length = s.cfg.pageSize := by simp [drawPage]

theorem onReset_keepsInv (hi : s.Inv) (h : onReset s = .next t) : t.Inv := by
  cases h
  have hn : Nvm.Sound s.cfg { s.nvm with busy := false } :=
    ⟨hi.stageLength, rfl, hi.flashWf, hi.flashBound⟩
  exact { afterReset_inv hi.cfgValid (drawPage_length s) hn with }

/-- R10, R121: a chunk overflows a buffer of whole chunks only where the buffer is full. -/
theorem State.Inv.full_of_overflow (hi : s.Inv) (h : s.cfg.pageSize < s.pageIndex + s.cfg.chunkN) :
    s.pageIndex = s.cfg.pageSize := by
  obtain ⟨i, hidx⟩ := Nat.dvd_of_mod_eq_zero hi.pageIndexChunks
  obtain ⟨p, hp⟩ := Nat.dvd_of_mod_eq_zero hi.cfgValid.pageSize_mod_chunkN
  have hle := hi.pageIndexLe
  rw [hidx, hp] at h hle ⊢
  rw [← Nat.mul_succ] at h
  have hge : p ≤ i := Nat.le_of_lt_succ (Nat.lt_of_mul_lt_mul_left h)
  exact hle.antisymm (Nat.mul_le_mul_left _ hge)

/-- R10, R117, R121: the buffer and the index after a command, whose chunk has CHUNK_N bytes where it is well formed. -/
theorem exec_keepsBufferInv (hi : s.Inv) {i : Instr} (hw : i.wf s.cfg = true) (hf : s.fault = none)
    (h : exec i s = .next t) : t.pb.length = s.cfg.pageSize ∧ t.pageIndex ≤ s.cfg.pageSize ∧
      t.pageIndex % s.cfg.chunkN = 0 ∧ (t.fault ≠ none → t.pageIndex = s.cfg.pageSize) := by
  have hlen := hi.pbLength
  have hle := hi.pageIndexLe
  have hmod := hi.pageIndexChunks
  rcases exec_buffer h with ⟨hp, hx, hft⟩ | ⟨d, k, rfl, ⟨ho, hp, hx, _, _⟩ | ⟨hfit, hp, hx, hft⟩⟩
  · rw [hp, hx, hft]
    exact ⟨hlen, hle, hmod, fun hn => absurd hf hn⟩
  · rw [hp, hx]
    exact ⟨hlen, hle, hmod, fun _ => hi.full_of_overflow ho⟩
  · have hd : d.length = s.cfg.chunkN := by simpa [Instr.wf] using hw
    rw [hp, hx, hft, hd, storeAt_length, Nat.add_mod_right]
    exact ⟨hlen, hfit, hmod, fun hn => absurd hf hn⟩

/-- R118: the one command that clears ApplicationReady sets DeleteFlashRequested with it. -/
theorem exec_notReadyDeletes (hi : s.Inv) {i : Instr} (h : exec i s = .next t)
    (ha : t.sr.applicationReady = false) : t.sr.deleteFlashRequested = true := by
  rcases exec_sr h with e | ⟨_, e⟩ | ⟨_, e⟩ | ⟨_, e⟩ | ⟨_, e⟩ | ⟨_, _, _, e⟩ <;>
    rw [e] at ha ⊢ <;> exact hi.notReadyDeletes ha

/-- R116: an address is stored aligned. -/
theorem exec_addressAligned (hi : s.Inv) {i : Instr} (h : exec i s = .next t) :
    t.flashPageAddress.toNat % s.cfg.pageSize = 0 := by
  rcases exec_flashPageAddress h with e | ⟨a, e⟩ <;> rw [e]
  · exact hi.addressAligned
  · exact pageBase_mod hi.cfgValid a

theorem exec_keepsInv (hi : s.Inv) {i : Instr} (hw : i.wf s.cfg = true) (hrun : s.halted = false)
    (h : exec i s = .next t) : t.Inv := by
  obtain ⟨hf, ht⟩ := halted_eq_false.1 hrun
  obtain ⟨hpb, hle, hmod, hfull⟩ := exec_keepsBufferInv hi hw hf h
  have haddr := exec_addressAligned hi h
  have hsr := exec_notReadyDeletes hi h
  rw [exec_changes h]
  exact { hi with
    pbLength := hpb
    pageIndexLe := hle
    pageIndexChunks := hmod
    addressAligned := haddr
    notReadyDeletes := hsr
    faultFull := fun hn => ⟨hfull hn, ht⟩ }

/-- Every completed step keeps the invariant: the event is taken off the list, and what it then does is one of the cases
above. What a frame decodes to is well formed. -/
theorem step_keepsInv (hi : s.Inv) (h : step s = .next t) : t.Inv := by
  rcases he : s.events with _ | ⟨e, es⟩
  · rw [step_of_no_event hi.cfgValid he] at h
    cases h
    exact hi
  · have hi' := hi.setEvents es
    obtain ⟨hv, hc⟩ := event_cases he h
    rcases hc with ⟨_, _, rfl⟩ | ⟨q, _, hrun, hx⟩ | ⟨_, _, rfl⟩ | ⟨_, hf, hs, rfl⟩ | ⟨_, hf, _, hx⟩ | ⟨_, hx⟩
    · exact hi'
    · exact exec_keepsInv hi' (encode_decode hv q).2 hrun hx
    · exact { hi' with }
    · exact tickUninitialized_keepsInv hi' hf (sup_eq_uninitialized.1 hs).1
    · exact tickIdle_keepsInv hi' hf hx
    · exact onReset_keepsInv hi' hx

/-! ### The boot vector -/

/-- A step that is no Idle tick keeps Flash and the staging buffer (R52, R242), and an Idle tick changes the controller as
its erase or its commit does. -/
theorem step_nvm_cases (h : step s = .next t) :
    (t.nvm.flash = s.nvm.flash ∧ t.nvm.stage = s.nvm.stage) ∨
    ∃ es u, s.events = .tick :: es ∧ s.fault = none ∧ s.sup = .idle ∧ t.nvm = u.nvm ∧
      (eraseAll (s.setEvents es) = .next u ∨ commitPage s.flashPageAddress (s.setEvents es) = .next u) := by
  obtain ⟨_, hc⟩ := step_cases h
  rcases hc with ⟨_, rfl⟩ | ⟨e, es, he, _⟩
  · exact .inl ⟨rfl, rfl⟩
  obtain ⟨_, hc⟩ := event_cases he h
  rcases hc with ⟨_, _, rfl⟩ | ⟨_, _, _, hx⟩ | ⟨_, _, rfl⟩ | ⟨_, _, _, rfl⟩ | ⟨rfl, hf, hs, hx⟩ | ⟨_, hx⟩
  · exact .inl ⟨rfl, rfl⟩
  · rw [exec_changes hx]
    exact .inl ⟨rfl, rfl⟩
  · exact .inl ⟨rfl, rfl⟩
  · rcases tickUninitialized_cases (s.setEvents es) with h | ⟨_, h⟩ | ⟨_, h⟩ <;> rw [h] <;> exact .inl ⟨rfl, rfl⟩
  · rcases tickIdle_cases hx with ⟨_, _, rfl⟩ | ⟨u, hu, rfl⟩ | ⟨_, _, _, u, hu, rfl⟩ | rfl
    · exact .inl ⟨rfl, rfl⟩
    · exact .inr ⟨es, u, he, hf, hs, rfl, .inl hu⟩
    · exact .inr ⟨es, u, he, hf, hs, rfl, .inr hu⟩
    · exact .inl ⟨rfl, rfl⟩
  · cases hx
    exact .inl ⟨rfl, rfl⟩

theorem step_cfg (h : step s = .next t) : t.cfg = s.cfg := by
  obtain ⟨_, ⟨_, rfl⟩ | ⟨e, es, he, _⟩⟩ := step_cases h
  · rfl
  obtain ⟨_, hc⟩ := event_cases he h
  rcases hc with ⟨_, _, rfl⟩ | ⟨_, _, _, hx⟩ | ⟨_, _, rfl⟩ | ⟨_, _, _, rfl⟩ | ⟨_, _, _, hx⟩ | ⟨_, hx⟩
  · rfl
  · rw [exec_changes hx]; rfl
  · rfl
  · rcases tickUninitialized_cases (s.setEvents es) with h | ⟨_, h⟩ | ⟨_, h⟩ <;> rw [h] <;> rfl
  · rcases tickIdle_cases hx with ⟨_, _, rfl⟩ | ⟨u, hu, rfl⟩ | ⟨_, _, _, u, hu, rfl⟩ | rfl
    · rfl
    · exact (eraseAll_changes hu).cfg
    · exact (commitPage_changes hu).cfg
    · rfl
  · cases hx; rfl

/-- Word 0 of `m` holds the boot vector: what `State.BootVectorPlaced` says of Flash. -/
def BootVectorAt (c : Config) (m : Memory) : Prop :=
  Memory.read m 0 = some (bootVector c).lo ∧ Memory.read m 1 = some (bootVector c).hi

/-- R151: page 0 as it is committed begins with the boot vector. -/
theorem fixedPage0_bootVector (hv : s.cfg.Valid) (hpb : s.pb.length = s.cfg.pageSize) :
    (fixedPage0 s)[0]? = some (bootVector s.cfg).lo ∧ (fixedPage0 s)[1]? = some (bootVector s.cfg).hi := by
  have := hv.pageSize_ge
  rw [fixedPage0_getElem? s (by omega), fixedPage0_getElem? s (by omega)]
  exact ⟨rfl, rfl⟩

/-- Programming a page other than page 0 leaves word 0 alone. -/
theorem BootVectorAt.programmed (h : BootVectorAt c n.flash) {a : Nat} (ha : 2 ≤ a) (img : List Byte) :
    BootVectorAt c (n.programmed a img).flash := by
  refine ⟨?_, ?_⟩ <;> rw [Nvm.programmed, read_writeRange_out _ _ _ _ (by omega)]
  · exact h.1
  · exact h.2

theorem bootVectorAt_programmed_zero (hv : s.cfg.Valid) (hpb : s.pb.length = s.cfg.pageSize) :
    BootVectorAt s.cfg (n.programmed 0 (fixedPage0 s)).flash := by
  have := hv.pageSize_ge
  obtain ⟨hlo, hhi⟩ := fixedPage0_bootVector hv hpb
  refine ⟨?_, ?_⟩
  · exact (read_writeRange_in _ 0 _ 0 (by rw [fixedPage0_length]; omega)).trans hlo
  · exact (read_writeRange_in _ 0 _ 1 (by rw [fixedPage0_length]; omega)).trans hhi

/-- A commit to page 0 puts the boot vector at word 0; any other leaves word 0 alone. -/
theorem commitPage_bootVectorAt (hi : s.Inv) (hb : BootVectorAt s.cfg s.nvm.flash) {pa : Word}
    (h : commitPage pa s = .next t) : BootVectorAt s.cfg t.nvm.flash := by
  have hv := hi.cfgValid
  have hp := hv.pageSize_ge
  have htpl := hv.pageSize_le_tplPage
  rcases commitPage_cases hv hi.pbLength hi.stageLength h with ⟨_, rfl⟩ | ⟨_, _, hn⟩ | ⟨h0, _, _, hn⟩
  · exact hb
  · rw [hn]
    exact (bootVectorAt_programmed_zero hv hi.pbLength).programmed (by omega) _
  · have hpos : 0 < (pageBase s.cfg pa).toNat :=
      Nat.pos_of_ne_zero fun e => h0 (BitVec.eq_of_toNat_eq e)
    have hpage := hv.page_le_of_lt (Nat.zero_mod _) (pageBase_mod hv pa) hpos
    rw [hn]
    exact hb.programmed (by omega) _

/-- eraseAll commits page 0 (R158). -/
theorem eraseAll_bootVectorAt (hi : s.Inv) (h : eraseAll s = .next t) : BootVectorAt s.cfg t.nvm.flash := by
  have hp := hi.cfgValid.pageSize_ge
  have hpage := fixedPage0_bootVector (s := erasedBuffer s) hi.cfgValid (by simp [erasedBuffer])
  rw [(eraseAll_result hi.cfgValid hi.stageLength h).2]
  refine ⟨?_, ?_⟩ <;> rw [read_erasedFlash hi.cfgValid, if_pos (by omega)]
  · exact hpage.1
  · exact hpage.2

theorem step_keepsBootVector (hi : s.Inv) (hb : s.BootVectorPlaced) (h : step s = .next t) : t.BootVectorPlaced := by
  show BootVectorAt t.cfg t.nvm.flash
  rw [step_cfg h]
  rcases step_nvm_cases h with ⟨hfl, _⟩ | ⟨es, u, _, _, _, hn, hu | hu⟩
  · rw [hfl]
    exact hb
  · rw [hn]
    exact eraseAll_bootVectorAt (s := s.setEvents es) (hi.setEvents es) hu
  · rw [hn]
    exact commitPage_bootVectorAt (s := s.setEvents es) (hi.setEvents es) hb hu

/-- R182: the boot vector's displacement leads from word 0 to word S. -/
theorem target_zero_bootVector (c : Config) : target 0 (c.wordS - 1) = c.wordS := by
  simp [target]

/-- R261: the CPU's jump at word 0. -/
theorem State.BootVectorPlaced.jumpChain_one (hb : s.BootVectorPlaced) : s.jumpChain 1 0 = some s.cfg.wordS := by
  have hjump : Memory.jumpFrom s.cfg s.nvm.flash 0 = some (target 0 (s.cfg.wordS - 1)) :=
    jumpFrom_rjmpWord hb.1 hb.2
  simp only [State.jumpChain, hjump, target_zero_bootVector]

end Sys2Proof.Machine

section

open Sys2Proof.Machine

/-- Settles O50: event by event. -/
theorem stepKeepsInvariant : Obligations.StepKeepsInvariant :=
  fun _ _ hi h => step_keepsInv hi h

/-- Settles O52: only a commit or an erase writes Flash, and either leaves the boot vector at word 0. -/
theorem resetAlwaysEntersBootloader : Obligations.ResetAlwaysEntersBootloader := by
  intro s t hi hb h
  have hb' := step_keepsBootVector hi hb h
  exact ⟨hb', hb'.jumpChain_one⟩

/-- Settles O55: what is no Idle tick keeps both. -/
theorem onlyIdleTicksChangeFlash : Obligations.OnlyIdleTicksChangeFlash := by
  intro s t e es he h hne
  rcases step_nvm_cases h with hkept | ⟨_, _, he', hf, hs, _⟩
  · exact hkept
  · rw [he] at he'
    cases he'
    exact absurd ⟨rfl, hs, hf⟩ hne

/-- Settles O57: event by event. -/
theorem configurationNeverChanges : Obligations.ConfigurationNeverChanges :=
  fun _ _ h => step_cfg h

end

/-! O25 and O34-O36: the checksum as an integer (00_scope.md R12) and the relative-jump words (42_trampoline.md
R180-R183). -/

namespace Sys2Proof.Machine

variable {c : Config}

theorem sum8_toNat (xs : List Byte) : (sum8 xs).toNat = (xs.map BitVec.toNat).sum % 256 := by
  induction xs with
  | nil => rfl
  | cons b bs ih =>
    rw [sum8, BitVec.toNat_add, ih, List.map_cons, List.sum_cons]
    omega

/-- R180: the calculator's bytes are a relative-jump word, whose displacement is the two's complement of `S - t`. -/
theorem joinWord_trampoline (c : Config) (lo hi : Byte) :
    joinWord (trampoline c lo hi).lo (trampoline c lo hi).hi =
      rjmpWord c (-(c.wordS - (dispOf (joinWord lo hi) + 1))) := by
  rw [BitVec.neg_eq_not_add]
  exact joinWord_wordBytes _

/-- R181: from word S - 1 that displacement leads to where `k` leads from word 0. -/
theorem target_trampoline (c : Config) (k : Disp) :
    target (c.wordS - 1) (-(c.wordS - (k + 1))) = target 0 k := by
  simp only [target]
  ring

theorem joinWord_bootVector (c : Config) :
    joinWord (bootVector c).lo (bootVector c).hi = rjmpWord c (c.wordS - 1) :=
  joinWord_wordBytes _

/-- The displacement of a word is its low byte and the lower nibble of its high byte (R88). -/
theorem dispOf_joinWord (lo hi : Byte) : dispOf (joinWord lo hi) = hi.extractLsb' 0 4 ++ lo := by
  apply BitVec.eq_of_getLsbD_eq
  intro i hi12
  simp only [dispOf, joinWord, BitVec.getLsbD_extractLsb', BitVec.getLsbD_append, hi12, Nat.zero_add]
  by_cases h8 : i < 8
  · simp [h8]
  · simp [h8, show i - 8 < 4 by omega]

/-- R183: the calculator reads the displacement alone. -/
theorem trampoline_congr {lo hi lo' hi' : Byte} (h : dispOf (joinWord lo hi) = dispOf (joinWord lo' hi')) :
    trampoline c lo hi = trampoline c lo' hi' := by
  simp only [trampoline, h]

end Sys2Proof.Machine

section

open Sys2Proof Sys2Proof.Machine

/-- Settles O25: by induction on the bytes. -/
theorem sumIsModulo256 : Obligations.SumIsModulo256 := sum8_toNat

/-- Settles O34: the displacement, as the two's complement it is, cancels against word S - 1. -/
theorem trampolineRoundTrip : Obligations.TrampolineRoundTrip := by
  intro c lo hi _
  rw [joinWord_trampoline, dispOf_rjmpWord, nibbleOf_rjmpWord]
  exact ⟨target_trampoline c _, rfl⟩

/-- Settles O35: the fields of the boot vector's word, and R9. -/
theorem bootVectorReachesBootloader : Obligations.BootVectorReachesBootloader := by
  intro c hv
  rw [joinWord_bootVector, dispOf_rjmpWord, nibbleOf_rjmpWord]
  exact ⟨target_zero_bootVector c, rfl, two_mul_wordS hv⟩

/-- Settles O36: vectors with one lower nibble have one displacement. -/
theorem trampolineIgnoresNibble : Obligations.TrampolineIgnoresNibble := by
  intro c lo hi hi' h
  apply trampoline_congr
  rw [dispOf_joinWord, dispOf_joinWord, h]

end

/-! O29-O33: the memory controller (20_memory.md R56-R61, R270). -/

namespace Sys2Proof.Machine

variable {c : Config}

theorem nvmErase_flash (a : Nat) (s : State) : (nvmErase a s).nvm.flash =
    Memory.writeRange s.nvm.flash a (List.replicate s.cfg.pageSize s.cfg.erased) := rfl

theorem nvmFill_stage (i : Nat) (w : Word) (s : State) : (nvmFill i w s).nvm.stage = s.nvm.stage.set i w := rfl

theorem nvmWrite_flash (a : Nat) (s : State) : (nvmWrite a s).nvm.flash =
    Memory.writeRange s.nvm.flash a (stageBytes s.nvm.stage) := rfl

/-- R58: word `i` of the staging buffer gives bytes `2 i` and `2 i + 1`, low byte first. -/
theorem stageBytes_getElem? (ws : List Word) (i : Nat) :
    (stageBytes ws)[2 * i]? = ws[i]?.map lo8 ∧ (stageBytes ws)[2 * i + 1]? = ws[i]?.map hi8 := by
  induction ws generalizing i with
  | nil => simp [stageBytes]
  | cons w ws ih =>
    cases i with
    | zero => simp [stageBytes]
    | succ i => simpa [stageBytes, Nat.mul_add] using ih i

/-- R61: what `ProgramPage` does to Flash. -/
theorem pageHolds_programmed {n : Nvm} {img : List Byte} (hi : img.length = c.pageSize) (a : Nat) :
    PageHolds c a img n.flash (n.programmed a img).flash :=
  ⟨fun j hj => read_writeRange_in _ _ _ j (hi ▸ hj), fun x hx => read_writeRange_out _ _ _ x (hi ▸ hx)⟩

end Sys2Proof.Machine

section

open Sys2Proof Sys2Proof.Machine

/-- Settles O29: reads inside and outside the written run. -/
theorem eraseSetsThePage : Obligations.EraseSetsThePage := by
  intro a s
  rw [nvmErase_flash]
  refine ⟨fun j hj => ?_, fun x hx => read_writeRange_out _ _ _ x (by simpa using hx), rfl⟩
  rw [read_writeRange_in _ _ _ j (by simpa using hj), List.getElem?_replicate, if_pos hj]

/-- Settles O30: the staging buffer at the index and beside it. -/
theorem fillStagesOneWord : Obligations.FillStagesOneWord := by
  intro i w s hi
  rw [nvmFill_stage]
  exact ⟨List.getElem?_set_self hi, fun k hk => List.getElem?_set_ne (Ne.symm hk), rfl, rfl⟩

/-- Settles O31: the write stores the staged bytes as one run. -/
theorem writeProgramsStagedWords : Obligations.WriteProgramsStagedWords := by
  intro a s
  have hlen := stageBytes_length s.nvm.stage
  rw [nvmWrite_flash]
  refine ⟨fun i w hw => ?_, fun x hx => read_writeRange_out _ _ _ x (hlen ▸ hx), rfl⟩
  have hi : i < s.nvm.stage.length := (List.getElem?_eq_some_iff.1 hw).1
  obtain ⟨hlo, hhi⟩ := stageBytes_getElem? s.nvm.stage i
  rw [Nat.add_assoc, read_writeRange_in _ _ _ _ (by omega), read_writeRange_in _ _ _ _ (by omega), hlo, hhi, hw]
  exact ⟨rfl, rfl⟩

/-- Settles O32: the equation of `programPage`, with its outputs as R61 lists them. -/
theorem programPageNetEffect : Obligations.ProgramPageNetEffect := by
  intro s a img hv hr hst hi
  rw [programPage_eq hr hv.pageSize_even hi hst, programOutputs_eq hi]
  exact ⟨_, rfl, rfl, pageHolds_programmed hi a, rfl⟩

/-- Settles O33: both reach the controller. -/
theorem controllerHangStopsCommits : Obligations.ControllerHangStopsCommits :=
  fun _ _ hv hr => ⟨commitPage_hang hr, eraseAll_hang hv hr⟩

end

/-! O7, O18, O19, O22-O24, O26 and O27: the commands (40_dispatcher.md R112-R121). Each command has an equation for its
next state; WritePageChunk and ReadPageChunk have one for each side of their range check. -/

namespace Sys2Proof.Machine

variable {s t : State}

/-! ### The equations of the page commands -/

theorem exec_setaddr (hi lo : Byte) (s : State) : exec (.setaddr hi lo) s = .next { s with
    flashPageAddress := pageBase s.cfg (joinWord lo hi)
    reply := [~~~s.cfg.opcSetaddr, hi + lo] } := rfl

/-- R121: a chunk past the end of the page raises the fault, whatever its checksum. -/
theorem exec_write_overflow (h : s.cfg.pageSize < s.pageIndex + s.cfg.chunkN) (d : List Byte) (k : Byte) :
    exec (.write d k) s = .next (raiseFault .pageOverflow s) := by
  simp only [exec, execWrite, if_pos h]

theorem raiseFault_of_none (h : s.fault = none) (r : FaultReason) : raiseFault r s = { s with fault := some r } := by
  simp only [raiseFault, h]
  rfl

theorem raiseFault_of_ne_none (h : s.fault ≠ none) (r : FaultReason) : raiseFault r s = s := by
  obtain ⟨r', hr⟩ := Option.ne_none_iff_exists'.1 h
  simp only [raiseFault, hr]

theorem raiseFault_ne_none (r : FaultReason) (s : State) : (raiseFault r s).fault ≠ none := by
  by_cases h : s.fault = none
  · simp [raiseFault_of_none h]
  · rwa [raiseFault_of_ne_none h]

/-- R119: the bad ranges, in integers. -/
theorem readRangeValid_eq_false {c : Config} {start length : Byte} : readRangeValid c start length = false ↔
    length = 0 ∨ c.readMax < length.toNat ∨ c.pageSize < start.toNat + length.toNat := by
  simp only [readRangeValid, Bool.not_eq_false', Bool.or_eq_true, decide_eq_true_eq, or_assoc]

/-- R119: the good ranges, in integers. -/
theorem readRangeValid_of_range {c : Config} {start length : Byte} (hpos : 1 ≤ length.toNat)
    (hmax : length.toNat ≤ c.readMax) (hend : start.toNat + length.toNat ≤ c.pageSize) :
    readRangeValid c start length = true := by
  rw [← Bool.not_eq_false, readRangeValid_eq_false]
  rintro (rfl | h | h)
  · simp at hpos
  · omega
  · omega

theorem exec_read_valid {start length : Byte} (h : readRangeValid s.cfg start length = true) :
    exec (.read start length) s = .next { s with
      reply := ~~~s.cfg.opcRead :: (pbSlice s start length ++ [sum8 (pbSlice s start length)]) } := by
  simp only [exec, execRead, if_pos h]
  rfl

theorem exec_read_invalid {start length : Byte} (h : readRangeValid s.cfg start length = false) :
    exec (.read start length) s = .next { s with reply := [s.cfg.readErrorByte] } := by
  simp only [exec, execRead, h]
  rfl

/-- In either case ReadPageChunk changes the reply alone. -/
theorem exec_read_reply (start length : Byte) (s : State) :
    ∃ xs, exec (.read start length) s = .next { s with reply := xs } := by
  cases h : readRangeValid s.cfg start length with
  | true => exact ⟨_, exec_read_valid h⟩
  | false => exact ⟨_, exec_read_invalid h⟩

theorem exec_unknown (q : List Byte) (s : State) :
    exec (.unknown q) s = .next { s with reply := List.replicate q.length s.cfg.unknownByte } := rfl

/-! ### Slices of the buffer -/

theorem pbSlice_getElem? (s : State) (start length : Byte) {j : Nat} (hj : j < length.toNat) :
    (pbSlice s start length)[j]? = s.pb[start.toNat + j]? := by
  rw [pbSlice, List.getElem?_take_of_lt hj, List.getElem?_drop]

theorem pbSlice_length {start length : Byte} (h : start.toNat + length.toNat ≤ s.pb.length) :
    (pbSlice s start length).length = length.toNat := by
  rw [pbSlice, List.length_take, List.length_drop]
  omega

/-! ### Every command -/

theorem exec_completes (i : Instr) (s : State) : ∃ t, exec i s = .next t := by
  cases i with
  | write d k =>
    rcases Nat.lt_or_ge s.cfg.pageSize (s.pageIndex + s.cfg.chunkN) with ho | hfit
    · exact ⟨_, exec_write_overflow ho d k⟩
    · exact ⟨_, exec_write_fits hfit d k⟩
  | read start length => exact (exec_read_reply start length s).imp' _ fun _ h => h
  | _ => exact ⟨_, rfl⟩

/-- What the commands without operands and Unknown do to the flags: each sets its own alone (R112-R115, R120). -/
theorem exec_sr_of_not_write {i : Instr} (hw : ∀ d k, i ≠ .write d k) (h : exec i s = .next t) :
    (i ≠ .initdev → t.sr.initStep1 = s.sr.initStep1) ∧
    (i ≠ .getver → t.sr.initStep2 = s.sr.initStep2) ∧
    (i ≠ .exit → t.sr.exitRequested = s.sr.exitRequested) ∧
    (i ≠ .delapp → t.sr.deleteFlashRequested = s.sr.deleteFlashRequested) ∧
    t.sr.applicationReady = s.sr.applicationReady := by
  rcases exec_sr h with e | ⟨rfl, e⟩ | ⟨rfl, e⟩ | ⟨rfl, e⟩ | ⟨rfl, e⟩ | ⟨d, k, rfl, _⟩
  · simp [e]
  · simp [e]
  · simp [e]
  · simp [e]
  · simp [e]
  · exact absurd rfl (hw d k)

/-- Not one of the four commands that set a flag of their own (R112-R115). -/
def OwnsNoFlag (i : Instr) : Prop := i ≠ .initdev ∧ i ≠ .getver ∧ i ≠ .exit ∧ i ≠ .delapp

/-- Any other command leaves the init flags and ExitRequested alone (R116-R120). -/
theorem exec_sr_of_ownsNoFlag {i : Instr} (hi : OwnsNoFlag i) (h : exec i s = .next t) : t.sr.initStep1 = s.sr.initStep1 ∧ t.sr.initStep2 = s.sr.initStep2 ∧
      t.sr.exitRequested = s.sr.exitRequested := by
  obtain ⟨hinit, hver, hexit, hdel⟩ := hi
  rcases exec_sr h with e | ⟨rfl, _⟩ | ⟨rfl, _⟩ | ⟨rfl, _⟩ | ⟨rfl, _⟩ | ⟨_, _, _, e⟩
  · simp [e]
  · exact absurd rfl hinit
  · exact absurd rfl hver
  · exact absurd rfl hdel
  · exact absurd rfl hexit
  · simp [e]

/-- SetPageAddress, ReadPageChunk and Unknown leave every flag alone. -/
theorem exec_sr_eq {i : Instr} (hi : OwnsNoFlag i) (hw : ∀ d k, i ≠ .write d k) (h : exec i s = .next t) : t.sr = s.sr := by
  obtain ⟨hinit, hver, hexit, hdel⟩ := hi
  rcases exec_sr h with e | ⟨rfl, _⟩ | ⟨rfl, _⟩ | ⟨rfl, _⟩ | ⟨rfl, _⟩ | ⟨d, k, rfl, _⟩
  · exact e
  · exact absurd rfl hinit
  · exact absurd rfl hver
  · exact absurd rfl hdel
  · exact absurd rfl hexit
  · exact absurd rfl (hw d k)

theorem exec_flashPageAddress_of_not_setaddr {i : Instr} (h : exec i s = .next t) (hi : ∀ hi lo, i ≠ .setaddr hi lo) :
    t.flashPageAddress = s.flashPageAddress := by
  cases i with
  | setaddr hi' lo => exact absurd rfl (hi hi' lo)
  | write d k =>
    rcases Nat.lt_or_ge s.cfg.pageSize (s.pageIndex + s.cfg.chunkN) with ho | hfit
    · rw [exec_write_overflow ho] at h
      cases h
      unfold raiseFault
      split <;> rfl
    · rw [exec_write_fits hfit] at h
      cases h
      rfl
  | read start length =>
    obtain ⟨xs, hx⟩ := exec_read_reply start length s
    rw [hx] at h
    cases h
    rfl
  | _ => cases h; rfl

end Sys2Proof.Machine

section

open Sys2Proof Sys2Proof.Machine

/-- Settles O7: command by command. -/
theorem everyCommandCompletes : Obligations.EveryCommandCompletes := exec_completes

/-- Settles O18: the page base of the joined bytes. -/
theorem setPageAddressStoresAlignedAddress : Obligations.SetPageAddressStoresAlignedAddress := by
  intro s hi lo hv
  refine ⟨_, exec_setaddr hi lo s, rfl, ?_⟩
  exact (pageBase_toNat hv _).trans (by rw [joinWord_toNat])

/-- Settles O19: the equation of a chunk that fits, and what its store leaves where. -/
theorem writePageChunkAppends : Obligations.WritePageChunkAppends := by
  intro s d k hd hpb hfit
  have hroom : s.pageIndex + d.length ≤ s.pb.length := by omega
  refine ⟨_, exec_write_fits hfit d k, by rw [hd], (storeAt_length ..).trans hpb,
    fun j hj => storeAt_getElem?_add hroom (hd ▸ hj), fun x hx => ?_⟩
  exact (storeAt_getElem? _ _ _ hroom x).trans (if_neg (by omega))

/-- Settles O22: the reply is built from the slice. -/
theorem readPageChunkReturnsSlice : Obligations.ReadPageChunkReturnsSlice := by
  intro s start length hpb hpos hmax hend
  exact ⟨pbSlice s start length, pbSlice_length (hpb ▸ hend), fun j hj => pbSlice_getElem? s start length hj,
    exec_read_valid (readRangeValid_of_range hpos hmax hend)⟩

/-- Settles O23: the three bad ranges are all there are. -/
theorem readPageChunkRejectsRange : Obligations.ReadPageChunkRejectsRange :=
  fun _ _ _ h => exec_read_invalid (readRangeValid_eq_false.2 h)

/-- Settles O24: the reply is the unknown byte, as often as the frame is long. -/
theorem unknownRepliesPerByte : Obligations.UnknownRepliesPerByte := by
  intro s q
  exact ⟨_, exec_unknown q s, rfl, List.length_replicate, fun b hb => List.eq_of_mem_replicate hb⟩

/-- Settles O26: these commands change the flags and the reply alone, and of the flags their own. -/
theorem handshakeCommandFrames : Obligations.HandshakeCommandFrames := by
  intro i s t hi h
  have hframe : t = { s with sr := t.sr, reply := t.reply } := by
    rcases hi with rfl | rfl | rfl | rfl | ⟨q, rfl⟩ <;> cases h <;> rfl
  have hw : ∀ d k, i ≠ .write d k := by
    rintro d k rfl
    simp at hi
  obtain ⟨h1, h2, hx, hd, ha⟩ := exec_sr_of_not_write hw h
  refine ⟨h1, h2, hx, hd, ha, ?_⟩
  rw [hframe]
  exact ⟨rfl, rfl, rfl, rfl, rfl, rfl, rfl, rfl, rfl, rfl, rfl, rfl, rfl, rfl, rfl, fun _ => rfl⟩

/-- Settles O27: the flags, the buffer and the address by what the kind of command can do to them, the rest by what every
command leaves alone. -/
theorem pageCommandFrames : Obligations.PageCommandFrames := by
  intro i s t hi h
  have hkind : OwnsNoFlag i := by
    rcases hi with ⟨_, _, rfl⟩ | ⟨_, _, rfl, _⟩ | ⟨_, _, rfl⟩ <;> simp [OwnsNoFlag]
  have hpb : ∀ x, x < s.pageIndex ∨ s.pageIndex + s.cfg.chunkN ≤ x → t.pb[x]? = s.pb[x]? := by
    intro x hx
    rcases exec_buffer h with ⟨hp, _, _⟩ | ⟨d, k, rfl, ⟨_, hp, _⟩ | ⟨hfit, hp, _⟩⟩
    · rw [hp]
    · rw [hp]
    · obtain ⟨hd, hlen⟩ : d.length = s.cfg.chunkN ∧ s.pb.length = s.cfg.pageSize := by simpa using hi
      rw [hp, storeAt_getElem? _ _ _ (by omega), if_neg (by omega)]
  obtain ⟨h1, h2, hx⟩ := exec_sr_of_ownsNoFlag hkind h
  refine ⟨h1, h2, hx, fun hw => ?_, exec_flashPageAddress_of_not_setaddr h, hpb, ?_⟩
  · obtain ⟨hp, hidx, hf⟩ := (exec_buffer h).resolve_right fun ⟨d, k, hi, _⟩ => hw d k hi
    exact ⟨exec_sr_eq hkind hw h, hp, hidx, hf⟩
  · rw [exec_changes h]
    exact ⟨rfl, rfl, rfl, rfl, rfl, rfl, rfl, rfl, rfl, rfl, rfl, fun _ => rfl⟩

end

/-! O21: the fault of an overflowing chunk, and claims about runs (40_dispatcher.md R121, 60_exceptions.md R236, R239). A
claim holds exactly where the run of the machine completes and no state of it is faulted, so a fault refutes it. -/

namespace Sys2Proof.Machine

variable {s t u : State} {n : Nat} {P : State → Prop}

theorem run_succ_eq_next : Host.Core.run core (n + 1) s = .next u ↔
    ∃ t, step s = .next t ∧ Host.Core.run core n t = .next u := by
  constructor
  · intro h
    cases hs : step s with
    | next t => exact ⟨t, rfl, (run_of_step hs n).symm.trans h⟩
    | fault r =>
      have hs' : core.step s = .fault r := hs
      simp only [Host.Core.run, hs'] at h
      cases h
    | refused r =>
      have hs' : core.step s = .refused r := hs
      simp only [Host.Core.run, hs'] at h
      cases h
  · rintro ⟨t, hs, ht⟩
    exact (run_of_step hs n).trans ht

/-- R236: what a claim says, in terms of the machine's runs. -/
theorem claims_iff_run : s.Claims n P ↔ (∃ t, Host.Core.run core n s = .next t ∧ P t) ∧
    ∀ k u, k ≤ n → Host.Core.run core k s = .next u → u.fault = none := by
  induction n generalizing s with
  | zero =>
    rw [claims_zero]
    constructor
    · rintro ⟨hf, hP⟩
      refine ⟨⟨s, run_zero s, hP⟩, fun k u hk hu => ?_⟩
      obtain rfl : k = 0 := Nat.le_zero.1 hk
      cases hu
      exact hf
    · rintro ⟨⟨t, ht, hP⟩, hall⟩
      cases ht
      exact ⟨hall 0 s le_rfl (run_zero s), hP⟩
  | succ n ih =>
    rw [claims_succ]
    constructor
    · rintro ⟨hf, t, hs, hc⟩
      obtain ⟨⟨v, hv, hP⟩, hall⟩ := ih.1 hc
      refine ⟨⟨v, run_succ_eq_next.2 ⟨t, hs, hv⟩, hP⟩, fun k u hk hu => ?_⟩
      cases k with
      | zero => cases hu; exact hf
      | succ k =>
        obtain ⟨t', hs', hu'⟩ := run_succ_eq_next.1 hu
        cases hs.symm.trans hs'
        exact hall k u (Nat.le_of_succ_le_succ hk) hu'
    · rintro ⟨⟨v, hv, hP⟩, hall⟩
      obtain ⟨t, hs, hv⟩ := run_succ_eq_next.1 hv
      refine ⟨hall 0 s (Nat.zero_le _) (run_zero s), t, hs, ih.2 ⟨⟨v, hv, hP⟩, fun k u hk hu => ?_⟩⟩
      exact hall (k + 1) u (Nat.succ_le_succ hk) (run_succ_eq_next.2 ⟨t, hs, hu⟩)

/-- A step that delivers a chunk past the end of the page to a block that takes it ends faulted. -/
theorem step_overflow_fault {q d : List Byte} {k : Byte} {es : List Event} (he : s.events = .receive q :: es)
    (hd : decode s.cfg q = .write d k) (hrun : s.halted = false) (ho : s.cfg.pageSize < s.pageIndex + s.cfg.chunkN)
    (h : step s = .next t) : t.fault ≠ none := by
  rcases step_cases h with ⟨hv, _⟩
  rw [step_of_event hv he, perform, onReceive_running (s := s.setEvents es) hrun] at h
  simp only [State.setEvents_cfg, hd] at h
  rw [exec_write_overflow (s := s.setEvents es) ho] at h
  cases h
  exact raiseFault_ne_none _ _

end Sys2Proof.Machine

section

open Sys2Proof Sys2Proof.Machine

/-- Settles O21: the command's equation on the side of the overflow, and claims as runs without a fault. -/
theorem pageOverflowFaults : Obligations.PageOverflowFaults := by
  refine ⟨fun s d k ho => ?_, fun s n P => claims_iff_run, fun s u k n P hu hf hk hc => ?_,
    fun s q d k es n P he hd ht ho => ?_⟩
  · rw [exec_write_overflow ho]
    exact ⟨fun hf => by rw [raiseFault_of_none hf], fun hf => by rw [raiseFault_of_ne_none hf]⟩
  · exact hf ((claims_iff_run.1 hc).2 k u hk hu)
  · rintro ⟨hf, t, hs, hc⟩
    exact not_claims_of_fault (step_overflow_fault he hd (halted_eq_false.2 ⟨hf, ht⟩) ho hs) hc

end

/-! O28: the condition codes (60_exceptions.md R231-R237, R239). For each code a lemma says when it is raised; the outcomes
are the equations of the commands and of the ticks. -/

namespace Sys2Proof.Machine

variable {s : State} {i : Instr}

/-! ### The conditions of a command -/

theorem commandCondition_eq_unknownCommand :
    commandCondition i s = some .unknownCommand ↔ ∃ q, i = .unknown q := by
  cases i with
  | write d k => simp only [commandCondition]; split_ifs <;> simp
  | read start length => simp only [commandCondition]; split_ifs <;> simp
  | _ => simp [commandCondition]

theorem commandCondition_eq_readRangeError : commandCondition i s = some .readRangeError ↔
    ∃ start length, i = .read start length ∧
      (length = 0 ∨ s.cfg.readMax < length.toNat ∨ s.cfg.pageSize < start.toNat + length.toNat) := by
  cases i with
  | write d k => simp only [commandCondition]; split_ifs <;> simp
  | read start length =>
    simp only [← readRangeValid_eq_false]
    cases h : readRangeValid s.cfg start length <;> simp [commandCondition, h]
  | _ => simp [commandCondition]

theorem commandCondition_eq_pageOverflow : commandCondition i s = some .pageOverflow ↔
    ∃ d k, i = .write d k ∧ s.cfg.pageSize < s.pageIndex + s.cfg.chunkN := by
  cases i with
  | write d k => simp only [commandCondition]; split_ifs with ho <;> simp [ho]
  | read start length => simp only [commandCondition]; split_ifs <;> simp
  | _ => simp [commandCondition]

theorem commandCondition_eq_checksumMismatch : commandCondition i s = some .checksumMismatch ↔
    ∃ d k, i = .write d k ∧ s.pageIndex + s.cfg.chunkN ≤ s.cfg.pageSize ∧ sum8 d ≠ k := by
  cases i with
  | write d k =>
    simp only [commandCondition]
    split_ifs with ho hk
    · simp [ho]
    · simp [hk]
    · simp [Nat.not_lt.1 ho, hk]
  | read start length => simp only [commandCondition]; split_ifs <;> simp
  | _ => simp [commandCondition]

/-- No command raises a condition of a tick. -/
theorem commandCondition_ne_tick (i : Instr) (s : State) : commandCondition i s ≠ some .handshakeTimeout ∧
    commandCondition i s ≠ some .protectedWriteDiscarded := by
  cases i with
  | write d k => simp only [commandCondition]; split_ifs <;> simp
  | read start length => simp only [commandCondition]; split_ifs <;> simp
  | _ => simp [commandCondition]

/-- A command without a condition leaves ApplicationReady and the fault alone. -/
theorem exec_of_no_condition (h : commandCondition i s = none) : ∃ t, exec i s = .next t ∧ t.fault = s.fault ∧
    t.sr.applicationReady = s.sr.applicationReady := by
  cases i with
  | write d k =>
    simp only [commandCondition] at h
    split_ifs at h with ho hk
    refine ⟨_, exec_write_fits (Nat.not_lt.1 ho) d k, rfl, ?_⟩
    simp [hk]
  | read start length =>
    obtain ⟨xs, hx⟩ := exec_read_reply start length s
    exact ⟨_, hx, rfl, rfl⟩
  | _ => exact ⟨_, rfl, rfl, rfl⟩

/-! ### The conditions of a tick -/

theorem countdownRuns_eq_true : countdownRuns s = true ↔
    s.cfg.partialInitTimeout = true ∨ (s.sr.initStep1 = false ∧ s.sr.initStep2 = false) := by
  simp [countdownRuns]

theorem eventCondition_halted (h : s.halted = true) (e : Event) : eventCondition e s = none := by
  simp only [eventCondition, h, if_true]

theorem eventCondition_receive (h : s.halted = false) (q : List Byte) :
    eventCondition (.receive q) s = commandCondition (decode s.cfg q) s := by
  simp [eventCondition, h]

theorem eventCondition_tick (h : s.halted = false) : eventCondition .tick s = tickCondition s := by
  simp [eventCondition, h]

/-- A Request and a Reset raise no condition, in a halted block or another. -/
theorem eventCondition_request_reset (s : State) : eventCondition .request s = none ∧ eventCondition .reset s = none := by
  simp [eventCondition]

theorem tickCondition_eq_handshakeTimeout : tickCondition s = some .handshakeTimeout ↔
    s.sup = .uninitialized ∧ countdownRuns s = true ∧ s.exitCountdown = 1 := by
  cases hs : s.sup <;> simp only [tickCondition, hs, sub_one_eq_zero] <;> simp

theorem tickCondition_eq_protectedWriteDiscarded : tickCondition s = some .protectedWriteDiscarded ↔
    s.sup = .idle ∧ s.sr.exitRequested = false ∧ s.sr.deleteFlashRequested = false ∧
      s.pageIndex = s.cfg.pageSize ∧ s.cfg.bootStart ≤ (pageBase s.cfg s.flashPageAddress).toNat := by
  cases hs : s.sup <;> simp [tickCondition, hs, protectedAddress, and_assoc]

theorem tickCondition_cases (s : State) : tickCondition s = none ∨ tickCondition s = some .handshakeTimeout ∨
    tickCondition s = some .protectedWriteDiscarded := by
  cases hs : s.sup <;> simp only [tickCondition, hs]
  · split_ifs <;> simp
  · split_ifs <;> simp
  · simp

/-- A condition of a tick is raised where the tick is taken, which no fault and no Terminal block does. -/
theorem eventCondition_tick_eq_some {x : Condition} :
    eventCondition .tick s = some x ↔ s.fault = none ∧ s.terminal = false ∧ tickCondition s = some x := by
  rw [← and_assoc, ← halted_eq_false]
  cases h : s.halted with
  | true => simp [eventCondition_halted h]
  | false => simp [eventCondition_tick h]

theorem eventCondition_handshakeTimeout : eventCondition .tick s = some .handshakeTimeout ↔
    s.fault = none ∧ s.sup = .uninitialized ∧
      (s.cfg.partialInitTimeout = true ∨ (s.sr.initStep1 = false ∧ s.sr.initStep2 = false)) ∧
      s.exitCountdown = 1 := by
  rw [eventCondition_tick_eq_some, tickCondition_eq_handshakeTimeout, countdownRuns_eq_true]
  have ht : s.sup = .uninitialized → s.terminal = false := fun h => (sup_eq_uninitialized.1 h).1
  tauto

theorem eventCondition_protectedWriteDiscarded : eventCondition .tick s = some .protectedWriteDiscarded ↔
    s.fault = none ∧ s.sup = .idle ∧ s.sr.exitRequested = false ∧ s.sr.deleteFlashRequested = false ∧
      s.pageIndex = s.cfg.pageSize ∧ s.cfg.bootStart ≤ (pageBase s.cfg s.flashPageAddress).toNat := by
  rw [eventCondition_tick_eq_some, tickCondition_eq_protectedWriteDiscarded]
  have ht : s.sup = .idle → s.terminal = false := fun h => (sup_eq_idle.1 h).1
  tauto

theorem eventCondition_tick_cases (s : State) : eventCondition .tick s = none ∨
    eventCondition .tick s = some .handshakeTimeout ∨ eventCondition .tick s = some .protectedWriteDiscarded := by
  cases h : s.halted with
  | true => exact .inl (eventCondition_halted h _)
  | false => simpa [eventCondition_tick h] using tickCondition_cases s

/-- R153, R208: the tick of a discarded commit moves the address on and clears the index, and does nothing else. -/
theorem tickIdle_protected (hv : s.cfg.Valid) (he : s.sr.exitRequested = false)
    (hd : s.sr.deleteFlashRequested = false) (hp : s.pageIndex = s.cfg.pageSize)
    (hb : s.cfg.bootStart ≤ (pageBase s.cfg s.flashPageAddress).toNat) : tickIdle s = .next { s with
      flashPageAddress := s.flashPageAddress + BitVec.ofNat 16 s.cfg.pageSize
      pageIndex := 0 } := by
  rw [tickIdle_full he hd hp, pageFullCommit, commitPage_protected hv hb]
  rfl

end Sys2Proof.Machine

section

open Sys2Proof Sys2Proof.Machine

/-- Settles O28: code by code, when it is raised and then its outcome. -/
theorem conditionsHaveTheirOutcomes : Obligations.ConditionsHaveTheirOutcomes := by
  refine ⟨fun i s => ?_, fun s => ?_, fun i s hf => ?_, fun s hv => ?_⟩
  · exact ⟨commandCondition_eq_unknownCommand, commandCondition_eq_readRangeError, commandCondition_eq_pageOverflow,
      commandCondition_eq_checksumMismatch, commandCondition_ne_tick i s⟩
  · refine ⟨eventCondition_handshakeTimeout, eventCondition_protectedWriteDiscarded, eventCondition_tick_cases s,
      fun q hf ht => ?_, (eventCondition_request_reset s).1, (eventCondition_request_reset s).2, fun e h => ?_⟩
    · exact eventCondition_receive (halted_eq_false.2 ⟨hf, ht⟩) q
    · exact eventCondition_halted (halted_eq_true.2 h) e
  · refine ⟨fun h => ?_, fun h => ?_, fun h => ?_, fun h => ?_, fun h => ?_⟩
    · obtain ⟨q, rfl⟩ := commandCondition_eq_unknownCommand.1 h
      exact ⟨q, rfl, exec_unknown q s⟩
    · obtain ⟨start, length, rfl, hbad⟩ := commandCondition_eq_readRangeError.1 h
      exact exec_read_invalid (readRangeValid_eq_false.2 hbad)
    · obtain ⟨d, k, rfl, ho⟩ := commandCondition_eq_pageOverflow.1 h
      rw [exec_write_overflow ho, raiseFault_of_none hf]
    · obtain ⟨d, k, rfl, hfit, hk⟩ := commandCondition_eq_checksumMismatch.1 h
      exact ⟨_, exec_write_fits hfit d k, hf, if_neg hk⟩
    · obtain ⟨t, ht, hft, ha⟩ := exec_of_no_condition h
      exact ⟨t, ht, hft.trans hf, ha⟩
  · refine ⟨fun h => ?_, fun h => ?_⟩
    · obtain ⟨hf, hs, hrun, hc⟩ := eventCondition_handshakeTimeout.1 h
      rw [onTick_uninitialized hf hs, tickUninitialized_timeout (countdownRuns_eq_true.2 hrun) hc]
      rfl
    · obtain ⟨hf, hs, he, hd, hp, hb⟩ := eventCondition_protectedWriteDiscarded.1 h
      rw [onTick_idle hf hs, tickIdle_protected hv he hd hp hb]

end

/-! O37-O41: the Flash Writer (41_flash_writer.md R150-R159), from the closed forms of a commit and of eraseAll: the
primitives as R61 lists them, and the bytes of Flash address by address. -/

namespace Sys2Proof.Machine

variable {s : State} {n : Nvm}

theorem newTrampoline_eq {lo hi : Byte} (hlo : s.pb[0]? = some lo) (hhi : s.pb[1]? = some hi) :
    newTrampoline s = trampoline s.cfg lo hi := by
  simp [newTrampoline, hlo, hhi]

theorem newTrampoline_erasedBuffer (hv : s.cfg.Valid) :
    newTrampoline (erasedBuffer s) = trampoline s.cfg s.cfg.erased s.cfg.erased := by
  have := hv.pageSize_ge
  have hget : ∀ i, i < s.cfg.pageSize → (erasedBuffer s).pb[i]? = some s.cfg.erased := by
    intro i hi
    simp [erasedBuffer, hi]
  exact newTrampoline_eq (hget 0 (by omega)) (hget 1 (by omega))

/-- R155: the primitives of the trampoline page, its scratch image written out. -/
theorem programOutputs_trampolineImage (hv : s.cfg.Valid) :
    programOutputs s.cfg.tplPage (trampolineImage s) = programSequence s.cfg s.cfg.tplPage
      (List.replicate (s.cfg.pageSize - 2) s.cfg.erased ++ [(newTrampoline s).lo, (newTrampoline s).hi]) := by
  have := hv.pageSize_ge
  rw [programOutputs_eq (trampolineImage_length s), trampolineImage_eq (by omega)]

/-- Page 0 and the trampoline page do not overlap, so after programming both each holds its image (R154, R155). -/
theorem read_programmed_zero_tplPage {c : Config} (hv : c.Valid) {p0 img : List Byte} (h0 : p0.length = c.pageSize)
    (hi : img.length = c.pageSize) (x : Nat) :
    Memory.read ((n.programmed 0 p0).programmed c.tplPage img).flash x =
      if x < c.pageSize then p0[x]?
      else if c.tplPage ≤ x ∧ x < c.bootStart then img[x - c.tplPage]?
      else Memory.read n.flash x := by
  have hle := hv.pageSize_le_tplPage
  have hadd := hv.tplPage_add
  simp only [Nvm.programmed, read_writeRange, h0, hi, hadd, Nat.zero_le, true_and, Nat.zero_add, Nat.sub_zero]
  by_cases hx : x < c.pageSize
  · rw [if_pos hx, if_neg (by omega), if_pos hx]
  · rw [if_neg hx, if_neg hx]

/-- The trampoline page after a commit to page 0: ERASED, and the trampoline word in its last two bytes (R155). -/
theorem trampolineImage_getElem?_sub (hv : s.cfg.Valid) {x : Nat} (hx : s.cfg.tplPage ≤ x) (hb : x < s.cfg.bootStart) :
    (trampolineImage s)[x - s.cfg.tplPage]? =
      if x = s.cfg.bootStart - 2 then some (newTrampoline s).lo
      else if x = s.cfg.bootStart - 1 then some (newTrampoline s).hi
      else some s.cfg.erased := by
  have hp := hv.pageSize_ge
  have hadd := hv.tplPage_add
  rw [trampolineImage_getElem? s (by omega)]
  by_cases h2 : x = s.cfg.bootStart - 2
  · rw [if_pos (by omega), if_pos h2]
  · by_cases h1 : x = s.cfg.bootStart - 1
    · rw [if_neg (by omega), if_pos (by omega), if_neg h2, if_pos h1]
    · rw [if_neg (by omega), if_neg (by omega), if_pos (by omega), if_neg h2, if_neg h1]

theorem fixedPage0_erasedBuffer_getElem? {x : Nat} (h2 : 2 ≤ x) (hx : x < s.cfg.pageSize) :
    (fixedPage0 (erasedBuffer s))[x]? = some s.cfg.erased := by
  rw [fixedPage0_getElem? _ (by simp [erasedBuffer]; omega), if_neg (by omega), if_neg (by omega)]
  simp [erasedBuffer, hx]

/-- R159, byte by byte. -/
theorem eraseEndState_erasedFlash (hv : s.cfg.Valid) : EraseEndState s.cfg s.nvm.flash (erasedFlash s) := by
  have hp := hv.pageSize_ge
  have hle := hv.pageSize_le_tplPage
  have hadd := hv.tplPage_add
  have hpage := fixedPage0_bootVector (s := erasedBuffer s) hv (by simp [erasedBuffer])
  have htpl : ∀ x, s.cfg.tplPage ≤ x → x < s.cfg.bootStart → Memory.read (erasedFlash s) x =
      if x = s.cfg.bootStart - 2 then some (trampoline s.cfg s.cfg.erased s.cfg.erased).lo
      else if x = s.cfg.bootStart - 1 then some (trampoline s.cfg s.cfg.erased s.cfg.erased).hi
      else some s.cfg.erased := by
    intro x hx hb
    rw [read_erasedFlash hv, if_neg (by omega), if_neg (by omega), if_pos hb, ← newTrampoline_erasedBuffer hv]
    exact trampolineImage_getElem?_sub (s := erasedBuffer s) hv hx hb
  refine ⟨?_, ?_, fun a h2 ha => ?_, ?_, ?_, fun a ha => ?_⟩
  · rw [read_erasedFlash hv, if_pos (by omega)]
    exact hpage.1
  · rw [read_erasedFlash hv, if_pos (by omega)]
    exact hpage.2
  · by_cases hx : s.cfg.tplPage ≤ a
    · rw [htpl a hx (by omega), if_neg (by omega), if_neg (by omega)]
    · rw [read_erasedFlash hv, if_pos (show a < s.cfg.tplPage by omega)]
      split
      · exact fixedPage0_erasedBuffer_getElem? h2 ‹_›
      · rfl
  · rw [htpl _ (by omega) (by omega), if_pos rfl]
  · rw [htpl _ (by omega) (by omega), if_neg (by omega), if_pos rfl]
  · rw [read_erasedFlash hv, if_neg (by omega), if_neg (by omega), if_neg (by omega)]

end Sys2Proof.Machine

section

open Sys2Proof Sys2Proof.Machine

/-- Settles O37: the closed form of a commit to page 0, its outputs as sequences, and reads of the two pages. -/
theorem commitPageZero : Obligations.CommitPageZero := by
  intro s pa lo hi hinv hr h0 hlo hhi
  have hv := hinv.cfgValid
  have hp := hv.pageSize_ge
  have hle := hv.pageSize_le_tplPage
  have hadd := hv.tplPage_add
  have hpb := hinv.pbLength
  have hf : (fixedPage0 s).length = s.cfg.pageSize := by rw [fixedPage0_length, hpb]
  have hbv := fixedPage0_bootVector hv hpb
  have hread := read_programmed_zero_tplPage (n := s.nvm) hv hf (trampolineImage_length s)
  have htpl : ∀ a, s.cfg.tplPage ≤ a → a < s.cfg.bootStart → Memory.read
      ((s.nvm.programmed 0 (fixedPage0 s)).programmed s.cfg.tplPage (trampolineImage s)).flash a =
      if a = s.cfg.bootStart - 2 then some (trampoline s.cfg lo hi).lo
      else if a = s.cfg.bootStart - 1 then some (trampoline s.cfg lo hi).hi
      else some s.cfg.erased := by
    intro a ha hb
    rw [hread, if_neg (by omega), if_pos ⟨ha, hb⟩, trampolineImage_getElem?_sub hv ha hb, newTrampoline_eq hlo hhi]
  have hcommit := commitPage_zero hv hr hpb hinv.stageLength h0
  rw [programOutputs_eq hf, programOutputs_trampolineImage hv, newTrampoline_eq hlo hhi] at hcommit
  refine ⟨_, hcommit, rfl, hf, hbv.1, hbv.2, fun x hx => ?_, fun j hj => (hread j).trans (if_pos hj),
    fun a ha hb => ?_, ?_, ?_, fun a ha hb => ?_⟩
  · exact (fixedPage0_getElem? s (by omega) x).trans (by rw [if_neg (by omega), if_neg (by omega)])
  · exact (htpl a ha (by omega)).trans (by rw [if_neg (by omega), if_neg (by omega)])
  · exact (htpl _ (by omega) (by omega)).trans (if_pos rfl)
  · exact (htpl _ (by omega) (by omega)).trans (by rw [if_neg (by omega), if_pos rfl])
  · exact (hread a).trans (by rw [if_neg (by omega), if_neg (by omega)])

/-- Settles O38: the closed form of a commit to a page, with the trampoline word in the buffer's last two bytes. -/
theorem commitTrampolinePage : Obligations.CommitTrampolinePage := by
  intro s pa hinv hr ht
  have hv := hinv.cfgValid
  have hp := hv.pageSize_ge
  have hle := hv.pageSize_le_tplPage
  have hadd := hv.tplPage_add
  have hlen : (withTrampolineWord s s.pb).length = s.cfg.pageSize := by
    rw [withTrampolineWord_length, hinv.pbLength]
  have hget := withTrampolineWord_getElem? s s.pb hinv.pbLength (by omega)
  have h0 : pageBase s.cfg pa ≠ 0 := by
    intro h
    rw [h] at ht
    simp at ht
    omega
  have hcommit := commitPage_page hv hr hinv.pbLength hinv.stageLength h0 (by omega)
  rw [if_pos ht, ht, programOutputs_eq hlen] at hcommit
  refine ⟨_, hcommit, rfl, hlen, (hget _).trans (if_pos rfl), (hget _).trans ?_, fun x hx => (hget x).trans ?_,
    pageHolds_programmed hlen _⟩
  · rw [if_neg (by omega), if_pos rfl]
  · rw [if_neg (by omega), if_neg (by omega)]

/-- Settles O39: the closed form of a commit to a page, with the buffer as it stands. -/
theorem commitOtherPage : Obligations.CommitOtherPage := by
  intro s pa hinv hr h0 hlt
  have hv := hinv.cfgValid
  have hadd := hv.tplPage_add
  have hcommit := commitPage_page hv hr hinv.pbLength hinv.stageLength h0 (by omega)
  rw [if_neg (by omega), programOutputs_eq hinv.pbLength] at hcommit
  exact ⟨_, hcommit, rfl, pageHolds_programmed hinv.pbLength _⟩

/-- Settles O40: the commit does nothing, and the Idle tick around it only advances. -/
theorem protectedCommitDiscarded : Obligations.ProtectedCommitDiscarded := by
  intro s es hv hb
  refine ⟨commitPage_protected hv hb, fun he hf hs hx hd hp => ?_⟩
  rw [step_of_event hv he, perform, onTick_idle (s := s.setEvents es) hf hs,
    tickIdle_protected (s := s.setEvents es) hv hx hd hp hb]
  rfl

/-- Settles O41: the closed form of eraseAll, its outputs as sequences, and its Flash byte by byte. -/
theorem eraseAllEndState : Obligations.EraseAllEndState := by
  intro s hinv hr
  have hv := hinv.cfgValid
  have hp := hv.pageSize_ge
  have hf : (fixedPage0 (erasedBuffer s)).length = s.cfg.pageSize := by simp [erasedBuffer]
  have hpage : fixedPage0 (erasedBuffer s) =
      (bootVector s.cfg).lo :: (bootVector s.cfg).hi :: List.replicate (s.cfg.pageSize - 2) s.cfg.erased :=
    fixedPage0_erasedBuffer (by omega)
  have htpl := programOutputs_trampolineImage (s := erasedBuffer s) hv
  have herase : eraseOutputs s.cfg.pageSize (s.cfg.tplPage / s.cfg.pageSize - 1) s.cfg.pageSize =
      (List.range (s.cfg.tplPage / s.cfg.pageSize - 1)).map (fun i => .nvmErase ((i + 1) * s.cfg.pageSize)) := by
    simp only [eraseOutputs_eq_map, Nat.add_one_mul, Nat.add_comm]
  rw [newTrampoline_erasedBuffer hv] at htpl
  have hall := eraseAll_eq hv hr hinv.stageLength
  rw [programOutputs_eq hf, show programOutputs s.cfg.tplPage (trampolineImage (erasedBuffer s)) = _ from htpl, herase,
    hpage, newTrampoline_erasedBuffer hv] at hall
  exact ⟨_, hall, rfl, eraseEndState_erasedFlash hv⟩

end

/-! O6, O8-O13: the step with an event waiting (00_scope.md R10, 40_dispatcher.md R110, R111) and Reset
(70_reset_and_hazards.md R260). -/

namespace Sys2Proof.Machine

variable {s : State} {es : List Event}

/-- R110: the step of a frame that the block takes. -/
theorem step_receive (hv : s.cfg.Valid) {q : List Byte} (he : s.events = .receive q :: es) (hf : s.fault = none)
    (ht : s.terminal = false) : step s = exec (decode s.cfg q) (s.setEvents es) := by
  rw [step_of_event hv he, perform]
  exact onReceive_running (s := s.setEvents es) (halted_eq_false.2 ⟨hf, ht⟩) q

/-- R110: the step of an instruction's own frame. -/
theorem step_receive_encode (hv : s.cfg.Valid) {i : Instr} (hw : i.wf s.cfg = true)
    (he : s.events = .receive (encode s.cfg i) :: es) (hf : s.fault = none) (ht : s.terminal = false) :
    step s = exec i (s.setEvents es) := by
  rw [step_receive hv he hf ht, decode_encode hv hw]

/-- R111: the step of a Request that the block takes. -/
theorem step_request (hv : s.cfg.Valid) (he : s.events = .request :: es) (hf : s.fault = none)
    (ht : s.terminal = false) :
    step s = .next ((emit (s.reply.map .transmit) (s.setEvents es)).setReply []) := by
  rw [step_of_event hv he, perform]
  exact onRequest_running (s := s.setEvents es) (halted_eq_false.2 ⟨hf, ht⟩)

/-- R201: the step of an Uninitialized tick. -/
theorem step_tick_uninitialized (hv : s.cfg.Valid) (he : s.events = .tick :: es) (hf : s.fault = none)
    (hs : s.sup = .uninitialized) : step s = .next (tickUninitialized (s.setEvents es)) := by
  rw [step_of_event hv he, perform]
  exact onTick_uninitialized (s := s.setEvents es) hf hs

/-- R204: the step of an Idle tick. -/
theorem step_tick_idle (hv : s.cfg.Valid) (he : s.events = .tick :: es) (hf : s.fault = none)
    (hs : s.sup = .idle) : step s = tickIdle (s.setEvents es) := by
  rw [step_of_event hv he, perform]
  exact onTick_idle (s := s.setEvents es) hf hs

/-- R110, R111, R210: a halted block takes no event but Reset. -/
theorem perform_halted (h : s.halted = true) {e : Event} (he : e ≠ .reset) : perform e s = .next s := by
  cases e with
  | receive q => exact onReceive_halted h q
  | request => exact onRequest_halted h
  | tick => exact onTick_halted h
  | reset => exact absurd rfl he

/-- R21, R40: "ApplicationReady set and all others clear" is the byte 0x08. -/
theorem statusRegister_reset_toByte : StatusRegister.reset.toByte = 0x08 := by decide

theorem reset_nvm_sound : State.reset.nvm.Sound Config.default where
  stageLength := List.length_replicate
  notBusy := rfl
  flashWf := State.reset_flash_wf
  flashBound := fun _ hc => absurd hc List.not_mem_nil

end Sys2Proof.Machine

section

open Sys2Proof Sys2Proof.Machine

/-- Settles O6: the step of a frame, and of an encoding. -/
theorem stepRunsDecodedFrame : Obligations.StepRunsDecodedFrame := by
  intro s q es hv he hf ht
  refine ⟨step_receive hv he hf ht, ?_⟩
  rintro i hw rfl
  exact step_receive_encode hv hw he hf ht

/-- Settles O8: R10's refusal. -/
theorem invalidConfigurationRefused : Obligations.InvalidConfigurationRefused :=
  fun _ hv => step_of_invalid hv

/-- Settles O9: event by event. -/
theorem haltedBlockIgnoresEvents : Obligations.HaltedBlockIgnoresEvents := by
  intro s e es hv he hne hh
  rw [step_of_event hv he]
  exact perform_halted (s := s.setEvents es) (halted_eq_true.2 hh) hne

/-- Settles O10: the step of a Request. -/
theorem requestTransmitsReply : Obligations.RequestTransmitsReply :=
  fun _ _ hv he hf ht => step_request hv he hf ht

/-- Settles O11: the Reset event's next state, element by element. -/
theorem resetRestoresTheBlock : Obligations.ResetRestoresTheBlock := by
  intro s es hv he
  exact ⟨_, step_of_event hv he, rfl, rfl, statusRegister_reset_toByte, drawPage_length _, rfl, rfl, rfl, rfl,
    exitCount_toNat hv, rfl, rfl, rfl, rfl, rfl, rfl, rfl, rfl, rfl⟩

/-- Settles O12: the values, evaluated. -/
theorem resetStateValues : Obligations.ResetStateValues := by
  unfold Obligations.ResetStateValues
  decide

/-- Settles O13: the reset values over the default configuration. -/
theorem resetMeetsInvariant : Obligations.ResetMeetsInvariant :=
  afterReset_inv Tests.default_valid List.length_replicate reset_nvm_sound

end

/-! O42, O44-O49: the Supervisor's ticks (43_supervisor.md R201-R209, R212, R213). -/

namespace Sys2Proof.Machine

variable {s t : State}

theorem countdownRuns_eq_false (hp : s.cfg.partialInitTimeout = false)
    (hi : s.sr.initStep1 = true ∨ s.sr.initStep2 = true) : countdownRuns s = false := by
  rcases hi with hi | hi <;> simp [countdownRuns, hp, hi]

/-- A commit completes where the controller clears busy. -/
theorem commitPage_completes (hi : s.Inv) (hr : s.nvm.neverReady = false) (pa : Word) :
    ∃ u, commitPage pa s = .next u := by
  rcases Nat.lt_or_ge (pageBase s.cfg pa).toNat s.cfg.bootStart with hlt | hge
  · by_cases h0 : pageBase s.cfg pa = 0
    · exact ⟨_, commitPage_zero hi.cfgValid hr hi.pbLength hi.stageLength h0⟩
    · exact ⟨_, commitPage_page hi.cfgValid hr hi.pbLength hi.stageLength h0 hlt⟩
  · exact ⟨s, commitPage_protected hi.cfgValid hge⟩

/-- R206, R207: the erase completes with R159's end state, and the block is Terminal at TPL_ENTRY. -/
theorem eraseAndHandoff_result (hi : s.Inv) (hr : s.nvm.neverReady = false) :
    ∃ t, eraseAndHandoff s = .next t ∧ t.cfg = s.cfg ∧ t.fault = s.fault ∧ t.sup = .terminal ∧
      t.handoffTarget = some s.cfg.tplEntry ∧ EraseEndState s.cfg s.nvm.flash t.nvm.flash := by
  have hall := eraseAll_eq hi.cfgValid hr hi.stageLength
  rw [eraseAndHandoff, hall, andThen_next]
  exact ⟨_, rfl, rfl, rfl, rfl, rfl, eraseEndState_erasedFlash hi.cfgValid⟩

/-! ### The chain after an erase -/

theorem jumpChain_succ {n : Nat} {W W' : Disp} (h : Memory.jumpFrom s.cfg s.nvm.flash W = some W') :
    s.jumpChain (n + 1) W = s.jumpChain n W' := by
  rw [State.jumpChain, h]

/-- R159, R185: the erased trampoline word, with the erased byte 0xFF, sends the CPU to word 0. -/
theorem EraseEndState.jumpFrom_tplEntry {c : Config} {m m' : Memory} (h : EraseEndState c m m') (hv : c.Valid)
    (he : c.erased = 0xFF) : Memory.jumpFrom c m' (c.wordS - 1) = some 0 := by
  obtain ⟨_, _, _, hlo, hhi, _⟩ := h
  have hp := hv.two_pages_le
  have hp4 := hv.pageSize_ge
  have hword := two_mul_wordS_sub_one hv
  have hsucc : 2 * (c.wordS - 1).toNat + 1 = c.bootStart - 1 := by omega
  rw [← hword] at hlo
  rw [← hsucc] at hhi
  have hff : target 0 (dispOf (joinWord 0xFF 0xFF)) = 0 := by decide
  simp only [Memory.jumpFrom, Memory.wordAt, hlo, hhi, joinWord_trampoline, nibbleOf_rjmpWord, dispOf_rjmpWord,
    target_trampoline, if_true]
  rw [he, hff]

/-- R206: the chain from TPL_ENTRY goes to word 0 and on into the bootloader. -/
theorem jumpChain_of_eraseEndState {m : Memory} (hv : t.cfg.Valid) (h : EraseEndState t.cfg m t.nvm.flash)
    (he : t.cfg.erased = 0xFF) : t.jumpChain 1 (t.cfg.wordS - 1) = some 0 ∧
      t.jumpChain 2 (t.cfg.wordS - 1) = some t.cfg.wordS := by
  have ⟨hlo, hhi, _⟩ := h
  have hboot : t.BootVectorPlaced := ⟨hlo, hhi⟩
  rw [jumpChain_succ (h.jumpFrom_tplEntry hv he), jumpChain_succ (h.jumpFrom_tplEntry hv he)]
  exact ⟨rfl, hboot.jumpChain_one⟩

end Sys2Proof.Machine

section

open Sys2Proof Sys2Proof.Machine

/-- Settles O42: the three equations of the Uninitialized tick. -/
theorem uninitializedTick : Obligations.UninitializedTick := by
  intro s es hv he hf hs
  rw [step_tick_uninitialized hv he hf hs]
  refine ⟨fun hp hi => ?_, fun hrun => ⟨fun hc => ?_, fun hc => ?_⟩⟩
  · rw [tickUninitialized_held (s := s.setEvents es) (countdownRuns_eq_false hp hi)]
    rfl
  · rw [tickUninitialized_counts (s := s.setEvents es) (countdownRuns_eq_true.2 hrun) hc]
    rfl
  · rw [tickUninitialized_timeout (s := s.setEvents es) (countdownRuns_eq_true.2 hrun) hc]
    rfl

/-- Settles O44: each frame sets its own init flag, and Idle is both. -/
theorem handshakeInEitherOrder : Obligations.HandshakeInEitherOrder := by
  intro s es hv hf ht h1 h2
  refine ⟨fun he => ?_, fun he => ?_⟩
  · refine ⟨_, _, step_receive_encode (i := .initdev) hv rfl he hf ht, ?_, step_receive_encode (i := .getver)
      (s := replyWith _ (setInitStep1 (s.setEvents (.receive [s.cfg.opcVersion] :: es)))) hv rfl rfl hf ht, ?_, rfl, rfl⟩
    · exact sup_eq_uninitialized.2 ⟨ht, by simp [replyWith, setInitStep1, h2]⟩
    · exact sup_eq_idle.2 ⟨ht, rfl, rfl⟩
  · refine ⟨_, _, step_receive_encode (i := .getver) hv rfl he hf ht, ?_, step_receive_encode (i := .initdev)
      (s := replyWith _ (setInitStep2 (s.setEvents (.receive [s.cfg.opcInit] :: es)))) hv rfl rfl hf ht, ?_, rfl, rfl⟩
    · exact sup_eq_uninitialized.2 ⟨ht, by simp [replyWith, setInitStep2, h1]⟩
    · exact sup_eq_idle.2 ⟨ht, rfl, rfl⟩

/-- Settles O45: the Idle tick's first branch. -/
theorem exitWithApplicationHandsOff : Obligations.ExitWithApplicationHandsOff := by
  intro s es hv he hf hs hx ha
  rw [step_tick_idle hv he hf hs]
  exact tickIdle_exit_ready (s := s.setEvents es) hx ha

/-- Settles O46: the Idle tick's second branch, R159's end state and the chain through it. -/
theorem exitWithoutApplicationErases : Obligations.ExitWithoutApplicationErases := by
  intro s es hi hr he hf hs hx ha
  have hv := hi.cfgValid
  have hstep : step s = eraseAndHandoff (s.setEvents es) :=
    (step_tick_idle hv he hf hs).trans (tickIdle_exit_not_ready (s := s.setEvents es) hx ha)
  obtain ⟨t, ht, hcfg, _, hsup, htarget, hend⟩ := eraseAndHandoff_result (hi.setEvents es) hr
  refine ⟨hstep, t, hstep.trans ht, hsup, htarget, hend, fun hff => ?_⟩
  have hcfg' : t.cfg = s.cfg := hcfg
  rw [← hcfg']
  exact jumpChain_of_eraseEndState (m := s.nvm.flash) (hcfg' ▸ hv) (hcfg' ▸ hend) (hcfg' ▸ hff)

/-- Settles O47: the Idle tick's third branch, and R159's end state. -/
theorem deleteErasesAndHandsOff : Obligations.DeleteErasesAndHandsOff := by
  intro s es hi hr he hf hs hx hd
  have hstep : step s = eraseAndHandoff (s.setEvents es) :=
    (step_tick_idle hi.cfgValid he hf hs).trans (tickIdle_delete (s := s.setEvents es) hx hd)
  obtain ⟨t, ht, _, _, hsup, htarget, hend⟩ := eraseAndHandoff_result (hi.setEvents es) hr
  exact ⟨hstep, t, hstep.trans ht, hsup, htarget, hend⟩

/-- Settles O48: the Idle tick's fourth branch; a commit changes neither the flags nor what the tick keeps. -/
theorem fullPageCommits : Obligations.FullPageCommits := by
  intro s es hi hr he hf hs hx hd hp
  obtain ⟨u, hu⟩ := commitPage_completes (hi.setEvents es) hr s.flashPageAddress
  have hstep : step s = .next
      ((u.setFlashPageAddress (u.flashPageAddress + BitVec.ofNat 16 u.cfg.pageSize)).setPageIndex 0) := by
    rw [step_tick_idle hi.cfgValid he hf hs, tickIdle_full (s := s.setEvents es) hx hd hp, pageFullCommit]
    show andThen (commitPage s.flashPageAddress (s.setEvents es)) _ = _
    rw [hu, andThen_next]
  refine ⟨_, u, hu, hstep, rfl, ?_⟩
  rw [commitPage_changes hu]
  exact ⟨nextPage_toNat hi.cfgValid s.flashPageAddress, rfl, hs, rfl, rfl, rfl⟩

/-- Settles O49: the Idle tick's last branch. -/
theorem idleTickWithoutWork : Obligations.IdleTickWithoutWork := by
  intro s es hv he hf hs hx hd hp
  rw [step_tick_idle hv he hf hs]
  exact tickIdle_nothing (s := s.setEvents es) hx hd hp

end

/-! O53, O54 and O56: who writes the flags, Terminal and the fault (10_state.md R21-R28, R33, R38). Of the events but Reset
only a command writes a flag or raises the fault, and only a tick makes the block Terminal. -/

namespace Sys2Proof.Machine

variable {s t : State} {e : Event} {es : List Event}

/-! ### The flags after a command -/

/-- The chunk fits and its checksum is wrong: what marks the application invalid (R118). -/
def MarksInvalid (i : Instr) (s : State) : Prop :=
  ∃ d k, i = .write d k ∧ s.pageIndex + s.cfg.chunkN ≤ s.cfg.pageSize ∧ sum8 d ≠ k

/-- The flags after a command: each was set before, or the command is the flag's own (R22-R26). -/
structure FlagsWritten (i : Instr) (s t : State) : Prop where
  initStep1 : t.sr.initStep1 = true ↔ s.sr.initStep1 = true ∨ i = .initdev
  initStep2 : t.sr.initStep2 = true ↔ s.sr.initStep2 = true ∨ i = .getver
  deleteFlashRequested : t.sr.deleteFlashRequested = true ↔
    s.sr.deleteFlashRequested = true ∨ i = .delapp ∨ MarksInvalid i s
  applicationReady : t.sr.applicationReady = false ↔ s.sr.applicationReady = false ∨ MarksInvalid i s
  exitRequested : t.sr.exitRequested = true ↔ s.sr.exitRequested = true ∨ i = .exit

theorem not_marksInvalid {i : Instr} (h : ∀ d k, i ≠ .write d k) : ¬ MarksInvalid i s :=
  fun ⟨d, k, hi, _⟩ => h d k hi

theorem marksInvalid_write (d : List Byte) (k : Byte) (s : State) : MarksInvalid (.write d k) s ↔
    s.pageIndex + s.cfg.chunkN ≤ s.cfg.pageSize ∧ sum8 d ≠ k := by
  simp [MarksInvalid]

/-- Where neither the flags change nor the command is one that writes them. -/
theorem FlagsWritten.of_eq {i : Instr} (h : t.sr = s.sr) (hi : OwnsNoFlag i) (hm : ¬ MarksInvalid i s) : FlagsWritten i s t := by
  obtain ⟨hinit, hver, hexit, hdel⟩ := hi
  constructor <;> simp [h, hinit, hver, hexit, hdel, hm]

theorem exec_write_flagsWritten {d : List Byte} {k : Byte} (h : exec (.write d k) s = .next t) :
    FlagsWritten (.write d k) s t := by
  rcases Nat.lt_or_ge s.cfg.pageSize (s.pageIndex + s.cfg.chunkN) with ho | hfit
  · rw [exec_write_overflow ho] at h
    cases h
    refine .of_eq (by unfold raiseFault; split <;> rfl) (by simp [OwnsNoFlag]) ?_
    rw [marksInvalid_write]
    omega
  · rw [exec_write_fits hfit] at h
    cases h
    by_cases hk : sum8 d = k
    · refine .of_eq (if_pos hk) (by simp [OwnsNoFlag]) ?_
      simp [marksInvalid_write, hk]
    · have hm : MarksInvalid (.write d k) s := (marksInvalid_write d k s).2 ⟨hfit, hk⟩
      constructor <;> simp [hk, hm]

theorem exec_flagsWritten {i : Instr} (h : exec i s = .next t) : FlagsWritten i s t := by
  cases i with
  | write d k => exact exec_write_flagsWritten h
  | read start length =>
    obtain ⟨xs, hx⟩ := exec_read_reply start length s
    rw [hx] at h
    cases h
    exact .of_eq rfl (by simp [OwnsNoFlag]) (not_marksInvalid (by simp))
  | setaddr hi lo => cases h; exact .of_eq rfl (by simp [OwnsNoFlag]) (not_marksInvalid (by simp))
  | unknown q => cases h; exact .of_eq rfl (by simp [OwnsNoFlag]) (not_marksInvalid (by simp))
  | initdev =>
    cases h
    constructor <;> simp [replyWith, setInitStep1, not_marksInvalid]
  | getver =>
    cases h
    constructor <;> simp [replyWith, setInitStep2, not_marksInvalid]
  | delapp =>
    cases h
    constructor <;> simp [replyWith, setDeleteFlashRequested, not_marksInvalid]
  | exit =>
    cases h
    constructor <;> simp [replyWith, setExitRequested, not_marksInvalid]

/-! ### What a tick leaves alone -/

theorem tickUninitialized_sr_fault (s : State) :
    (tickUninitialized s).sr = s.sr ∧ (tickUninitialized s).fault = s.fault := by
  rcases tickUninitialized_cases s with h | ⟨_, h⟩ | ⟨_, h⟩ <;> rw [h] <;> exact ⟨rfl, rfl⟩

theorem tickIdle_sr_fault (h : tickIdle s = .next t) : t.sr = s.sr ∧ t.fault = s.fault := by
  rcases tickIdle_cases h with ⟨_, _, rfl⟩ | ⟨u, hu, rfl⟩ | ⟨_, _, _, u, hu, rfl⟩ | rfl
  · exact ⟨rfl, rfl⟩
  · rw [eraseAll_changes hu]
    exact ⟨rfl, rfl⟩
  · rw [commitPage_changes hu]
    exact ⟨rfl, rfl⟩
  · exact ⟨rfl, rfl⟩

/-- A step with an event but Reset runs a command, or it takes none and leaves the flags and the fault alone. -/
theorem step_command_cases (he : s.events = e :: es) (hne : e ≠ .reset) (h : step s = .next t) :
    (t.sr = s.sr ∧ t.fault = s.fault ∧ ¬ (s.halted = false ∧ ∃ q, e = .receive q)) ∨
    ∃ q, e = .receive q ∧ s.halted = false ∧ exec (decode s.cfg q) (s.setEvents es) = .next t := by
  obtain ⟨_, hc⟩ := event_cases he h
  rcases hc with ⟨_, hh, rfl⟩ | ⟨q, hq, hh, hx⟩ | ⟨rfl, _, rfl⟩ | ⟨rfl, _, _, rfl⟩ | ⟨rfl, _, _, hx⟩ | ⟨hr, _⟩
  · exact .inl ⟨rfl, rfl, by simp [hh]⟩
  · exact .inr ⟨q, hq, hh, hx⟩
  · exact .inl ⟨rfl, rfl, by simp⟩
  · obtain ⟨hsr, hft⟩ := tickUninitialized_sr_fault (s.setEvents es)
    exact .inl ⟨hsr, hft, by simp⟩
  · obtain ⟨hsr, hft⟩ := tickIdle_sr_fault hx
    exact .inl ⟨hsr, hft, by simp⟩
  · exact absurd hr hne

end Sys2Proof.Machine

section

open Sys2Proof Sys2Proof.Machine

/-- Settles O54: a command writes the flags it owns, and what takes no command writes none. -/
theorem onlyOwnCommandsSetFlags : Obligations.OnlyOwnCommandsSetFlags := by
  intro s t e es he hne h
  rcases step_command_cases he hne h with ⟨hsr, _, hno⟩ | ⟨q, rfl, hrun, hx⟩
  · have hno' : ∀ p : List Byte → Prop, ¬ (s.halted = false ∧ ∃ q, e = .receive q ∧ p q) :=
      fun p ⟨hrun, q, hq, _⟩ => hno ⟨hrun, q, hq⟩
    rw [hsr]
    exact ⟨(or_iff_left (hno' _)).symm, (or_iff_left (hno' _)).symm, (or_iff_left (hno' _)).symm,
      (or_iff_left (hno' _)).symm, (or_iff_left (hno' _)).symm⟩
  · obtain ⟨h1, h2, hd, ha, hexit⟩ := exec_flagsWritten hx
    simp only [Event.receive.injEq, hrun, true_and, exists_eq_left']
    exact ⟨h1, h2, hd, ha, hexit⟩

/-- Settles O53: a flag that was set stays set after its own command and after any other, and Idle is two set flags. -/
theorem flagsAreSticky : Obligations.FlagsAreSticky := by
  intro s t e es he hne h
  obtain ⟨h1, h2, hd, ha, hx⟩ := onlyOwnCommandsSetFlags s t e es he hne h
  refine ⟨fun hs => h1.2 (.inl hs), fun hs => h2.2 (.inl hs), fun hs => hd.2 (.inl hs), fun hs => hx.2 (.inl hs),
    fun hs => ha.2 (.inl hs), fun hs ht => ?_⟩
  obtain ⟨_, hs1, hs2⟩ := sup_eq_idle.1 hs
  exact (sup_eq_uninitialized.1 ht).2 ⟨h1.2 (.inl hs1), h2.2 (.inl hs2)⟩

/-- Settles O56: a Terminal block takes no event, and of the commands only an overflowing chunk raises the fault. -/
theorem terminalAndFaultEndByResetAlone : Obligations.TerminalAndFaultEndByResetAlone := by
  intro s t e es he hne h
  have hkept : s.halted = true → t = s.setEvents es := by
    intro hh
    rw [step_of_event (step_cases h).1 he, perform_halted (s := s.setEvents es) hh hne] at h
    cases h
    rfl
  refine ⟨fun ht => ?_, fun hf => ?_, fun hf hft => ?_⟩
  · rw [hkept (halted_eq_true.2 (.inr ht))]
    exact ⟨ht, rfl⟩
  · rw [hkept (halted_eq_true.2 (.inl hf))]
    rfl
  · rcases step_command_cases he hne h with ⟨_, hsame, _⟩ | ⟨q, rfl, hrun, hx⟩
    · exact absurd (hsame.trans hf) hft
    · rcases exec_buffer hx with ⟨_, _, hsame⟩ | ⟨d, k, hi, ⟨ho, _⟩ | ⟨_, _, _, hsame⟩⟩
      · exact absurd (hsame.trans hf) hft
      · exact ⟨(halted_eq_false.1 hrun).2, ho, q, d, k, rfl, hi⟩
      · exact absurd (hsame.trans hf) hft

end

/-! O58: the block never reads Flash (20_memory.md R50, R65). Each operation, on two states that differ in Flash alone, has
one outcome and leaves states that differ in Flash alone; sequencing and choices on other elements keep that. -/

namespace Sys2Proof.Machine

variable {s t : State}

/-- The state with other contents of Flash. -/
def State.withFlash (m : Memory) (s : State) : State := { s with nvm := { s.nvm with flash := m } }

/-- The same outcome, and the same next state but for Flash. -/
def SameButFlash (o o' : Host.Outcome State Fault Refusal) : Prop :=
  (∀ t, o = .next t → ∃ m', o' = .next (t.withFlash m')) ∧
  (∀ r, o = .fault r → o' = .fault r) ∧
  (∀ r, o = .refused r → o' = .refused r)

theorem SameButFlash.next (t : State) (m : Memory) : SameButFlash (.next t) (.next (t.withFlash m)) := by
  refine ⟨?_, ?_, ?_⟩ <;> rintro _ ⟨⟩
  exact ⟨m, rfl⟩

theorem SameButFlash.fault (r : Fault) : SameButFlash (.fault r) (.fault r) := by
  refine ⟨?_, ?_, ?_⟩ <;> rintro _ ⟨⟩
  rfl

theorem SameButFlash.refused (r : Refusal) : SameButFlash (.refused r) (.refused r) := by
  refine ⟨?_, ?_, ?_⟩ <;> rintro _ ⟨⟩
  rfl

section

variable {o o' p p' : Host.Outcome State Fault Refusal}

theorem SameButFlash.andThen {f f' : State → Host.Outcome State Fault Refusal} (h : SameButFlash o o')
    (hf : ∀ t m, SameButFlash (f t) (f' (t.withFlash m))) : SameButFlash (andThen o f) (andThen o' f') := by
  obtain ⟨hnext, hfault, hrefused⟩ := h
  cases o with
  | next t =>
    obtain ⟨m, rfl⟩ := hnext t rfl
    exact hf t m
  | fault r => rw [hfault r rfl]; exact .fault r
  | refused r => rw [hrefused r rfl]; exact .refused r

theorem SameButFlash.ite {q : Prop} [Decidable q] (h : SameButFlash o o') (k : SameButFlash p p') :
    SameButFlash (if q then o else p) (if q then o' else p') := by
  by_cases hq : q
  · rwa [if_pos hq, if_pos hq]
  · rwa [if_neg hq, if_neg hq]

end

/-! ### The controller and the Flash Writer -/

theorem waitNotBusy_sameButFlash (s : State) (m : Memory) :
    SameButFlash (waitNotBusy s) (waitNotBusy (s.withFlash m)) :=
  .ite (.ite (.fault _) (.next (s.setNvm { s.nvm with busy := false }) m)) (.next s m)

theorem fillFrom_withFlash : ∀ (img : List Byte) (i : Nat) (s : State) (m : Memory),
    fillFrom i img (s.withFlash m) = (fillFrom i img s).withFlash m
  | [], _, _, _ => rfl
  | [_], _, _, _ => rfl
  | lo :: hi :: rest, i, s, m => fillFrom_withFlash rest (i + 1) (nvmFill i (joinWord lo hi) s) m

theorem programPage_sameButFlash (a : Nat) (img : List Byte) (s : State) (m : Memory) :
    SameButFlash (programPage a img s) (programPage a img (s.withFlash m)) := by
  refine (waitNotBusy_sameButFlash s m).andThen fun t m => ?_
  refine (waitNotBusy_sameButFlash (nvmErase a t) _).andThen fun u m => ?_
  rw [fillFrom_withFlash]
  exact waitNotBusy_sameButFlash (nvmWrite a (fillFrom 0 img u)) _

theorem fixResetVector_withFlash (a : Word) (s : State) (m : Memory) :
    fixResetVector a (s.withFlash m) = (fixResetVector a s).withFlash m := by
  by_cases h : a = 0
  · rw [fixResetVector, fixResetVector, if_pos h, if_pos h]
    rfl
  · rw [fixResetVector, fixResetVector, if_neg h, if_neg h]

theorem placeTrampolineWord_withFlash (a : Word) (s : State) (m : Memory) :
    placeTrampolineWord a (s.withFlash m) = (placeTrampolineWord a s).withFlash m := by
  by_cases h : a.toNat = s.cfg.tplPage
  · rw [placeTrampolineWord, placeTrampolineWord, if_pos h]
    exact if_pos h
  · rw [placeTrampolineWord, placeTrampolineWord, if_neg h]
    exact if_neg h

theorem createTrampolinePage_sameButFlash (a : Word) (s : State) (m : Memory) :
    SameButFlash (createTrampolinePage a s) (createTrampolinePage a (s.withFlash m)) :=
  .ite (programPage_sameButFlash _ _ s m) (.next s m)

theorem commitPage_sameButFlash (pa : Word) (s : State) (m : Memory) :
    SameButFlash (commitPage pa s) (commitPage pa (s.withFlash m)) := by
  have hbase : pageBase (s.withFlash m).cfg pa = pageBase s.cfg pa := rfl
  simp only [commitPage, hbase, fixResetVector_withFlash, placeTrampolineWord_withFlash]
  exact .ite (.next _ m) ((programPage_sameButFlash _ _ _ m).andThen (createTrampolinePage_sameButFlash _))

theorem erasePages_sameButFlash (n a : Nat) (s : State) (m : Memory) :
    SameButFlash (erasePages n a s) (erasePages n a (s.withFlash m)) := by
  induction n generalizing a s m with
  | zero => exact .next s m
  | succ n ih =>
    refine (waitNotBusy_sameButFlash s m).andThen fun t m => ?_
    exact (waitNotBusy_sameButFlash (nvmErase a t) _).andThen fun u m => ih (a + u.cfg.pageSize) u m

theorem eraseAll_sameButFlash (s : State) (m : Memory) : SameButFlash (eraseAll s) (eraseAll (s.withFlash m)) :=
  (commitPage_sameButFlash 0 (s.setPb (List.replicate s.cfg.pageSize s.cfg.erased)) m).andThen
    fun t m => erasePages_sameButFlash (t.cfg.tplPage / t.cfg.pageSize - 1) t.cfg.pageSize t m

/-! ### The events -/

theorem raiseFault_withFlash (r : FaultReason) (s : State) (m : Memory) :
    raiseFault r (s.withFlash m) = (raiseFault r s).withFlash m := by
  by_cases h : s.fault = none
  · rw [raiseFault_of_none h, raiseFault_of_none (s := s.withFlash m) h]
    rfl
  · rw [raiseFault_of_ne_none h, raiseFault_of_ne_none (s := s.withFlash m) h]

theorem exec_sameButFlash (i : Instr) (s : State) (m : Memory) :
    SameButFlash (exec i s) (exec i (s.withFlash m)) := by
  cases i with
  | write d k =>
    rcases Nat.lt_or_ge s.cfg.pageSize (s.pageIndex + s.cfg.chunkN) with ho | hfit
    · rw [exec_write_overflow ho, exec_write_overflow (s := s.withFlash m) ho, raiseFault_withFlash]
      exact .next _ m
    · rw [exec_write_fits hfit, exec_write_fits (s := s.withFlash m) hfit]
      exact .next _ m
  | read start length =>
    exact .ite (.next (s.setReply _) m) (.next (s.setReply _) m)
  | _ => exact .next _ m

theorem tickUninitialized_withFlash (s : State) (m : Memory) :
    tickUninitialized (s.withFlash m) = (tickUninitialized s).withFlash m := by
  cases hc : countdownRuns s with
  | false =>
    rw [tickUninitialized_held hc, tickUninitialized_held (s := s.withFlash m) hc]
    rfl
  | true =>
    by_cases h1 : s.exitCountdown = 1
    · rw [tickUninitialized_timeout hc h1, tickUninitialized_timeout (s := s.withFlash m) hc h1]
      rfl
    · rw [tickUninitialized_counts hc h1, tickUninitialized_counts (s := s.withFlash m) hc h1]
      rfl

theorem eraseAndHandoff_sameButFlash (s : State) (m : Memory) :
    SameButFlash (eraseAndHandoff s) (eraseAndHandoff (s.withFlash m)) :=
  (eraseAll_sameButFlash s m).andThen fun t m => .next (handoff t.cfg.tplEntry t) m

theorem pageFullCommit_sameButFlash (s : State) (m : Memory) :
    SameButFlash (pageFullCommit s) (pageFullCommit (s.withFlash m)) :=
  (commitPage_sameButFlash s.flashPageAddress s m).andThen fun t m =>
    .next ((t.setFlashPageAddress (t.flashPageAddress + BitVec.ofNat 16 t.cfg.pageSize)).setPageIndex 0) m

theorem tickIdle_sameButFlash (s : State) (m : Memory) : SameButFlash (tickIdle s) (tickIdle (s.withFlash m)) :=
  .ite (.next (handoff s.cfg.tplEntry s) m) <| .ite (eraseAndHandoff_sameButFlash s m) <|
    .ite (eraseAndHandoff_sameButFlash s m) <| .ite (pageFullCommit_sameButFlash s m) (.next s m)

theorem onTick_sameButFlash (s : State) (m : Memory) : SameButFlash (onTick s) (onTick (s.withFlash m)) := by
  refine .ite (.next s m) ?_
  have hsup : (s.withFlash m).sup = s.sup := rfl
  rw [hsup]
  cases s.sup with
  | uninitialized => rw [tickUninitialized_withFlash]; exact .next _ m
  | idle => exact tickIdle_sameButFlash s m
  | terminal => exact .next s m

theorem perform_sameButFlash (e : Event) (s : State) (m : Memory) :
    SameButFlash (perform e s) (perform e (s.withFlash m)) := by
  cases e with
  | receive q => exact .ite (.next s m) (exec_sameButFlash (decode s.cfg q) s m)
  | request => exact .ite (.next s m) (.next ((emit (s.reply.map .transmit) s).setReply []) m)
  | tick => exact onTick_sameButFlash s m
  | reset => exact .next _ m

theorem step_sameButFlash (s : State) (m : Memory) : SameButFlash (step s) (step (s.withFlash m)) := by
  by_cases hv : s.cfg.Valid
  · cases he : s.events with
    | nil =>
      rw [step_of_no_event hv he, step_of_no_event (s := s.withFlash m) hv he]
      exact .next s m
    | cons e es =>
      rw [step_of_event hv he, step_of_event (s := s.withFlash m) hv he]
      exact perform_sameButFlash e (s.setEvents es) m
  · rw [step_of_invalid hv, step_of_invalid (s := s.withFlash m) hv]
    exact .refused _

end Sys2Proof.Machine

section

open Sys2Proof.Machine

/-- Settles O58: operation by operation. -/
theorem blockNeverReadsFlash : Obligations.BlockNeverReadsFlash := step_sameButFlash

end

/-! O43, O59 and O60: claims about runs (60_exceptions.md R236). A claim over a run is put together from claims over its
parts, and every state of a run from an invariant state meets the invariant. -/

namespace Sys2Proof.Machine

variable {s t : State} {es : List Event} {n m : Nat} {P : State → Prop}

/-- A run of `n + m` steps is a run of `n` and a run of `m`. -/
theorem claims_append (h : s.Claims n fun t => t.Claims m P) : s.Claims (n + m) P := by
  induction n generalizing s with
  | zero => rw [Nat.zero_add]; exact (claims_zero.1 h).2
  | succ n ih =>
    obtain ⟨hf, t, ht, hc⟩ := claims_succ.1 h
    rw [Nat.succ_add]
    exact claims_succ.2 ⟨hf, t, ht, ih hc⟩

/-- A claim from an invariant state may use the invariant at its end. -/
theorem State.Claims.withInv (hi : s.Inv) (h : s.Claims n P) : s.Claims n fun t => t.Inv ∧ P t := by
  induction n generalizing s with
  | zero => exact ⟨h.1, hi, h.2⟩
  | succ n ih =>
    obtain ⟨hf, t, ht, hc⟩ := claims_succ.1 h
    exact claims_succ.2 ⟨hf, t, ht, ih (step_keepsInv hi ht) hc⟩

/-! ### The countdown without a master -/

/-- A block in a valid configuration that no master has addressed yet, and that has not handed off. -/
structure State.NoMaster (s : State) : Prop where
  valid : s.cfg.Valid
  fault : s.fault = none
  terminal : s.terminal = false
  initStep1 : s.sr.initStep1 = false
  initStep2 : s.sr.initStep2 = false

theorem State.NoMaster.sup (h : s.NoMaster) : s.sup = .uninitialized :=
  sup_eq_uninitialized.2 ⟨h.terminal, by simp [h.initStep1]⟩

theorem State.NoMaster.countdownRuns (h : s.NoMaster) : countdownRuns s = true :=
  countdownRuns_eq_true.2 (.inr ⟨h.initStep1, h.initStep2⟩)

/-- R201: every tick but the last one blinks and counts. -/
theorem State.NoMaster.step_counts (h : s.NoMaster) (he : s.events = .tick :: es) (hc : s.exitCountdown ≠ 1) :
    step s = .next (((s.setEvents es).setIndicator (!s.indicator)).setExitCountdown (s.exitCountdown - 1)) :=
  (step_tick_uninitialized h.valid he h.fault h.sup).trans
    (congrArg _ (tickUninitialized_counts (s := s.setEvents es) h.countdownRuns hc))

/-- R202: the last tick hands off. -/
theorem State.NoMaster.step_timeout (h : s.NoMaster) (he : s.events = .tick :: es) (hc : s.exitCountdown = 1) :
    step s = .next (handoff s.cfg.tplEntry (((s.setEvents es).setIndicator (!s.indicator)).setExitCountdown 0)) :=
  (step_tick_uninitialized h.valid he h.fault h.sup).trans
    (congrArg _ (tickUninitialized_timeout (s := s.setEvents es) h.countdownRuns hc))

/-- R202: the claim about the last tick. -/
theorem State.NoMaster.claims_timeout (h : s.NoMaster) (he : s.events = .tick :: es) (hc : s.exitCountdown = 1) :
    s.Claims 1 fun t => t.sup = .terminal ∧ t.handoffTarget = some s.cfg.tplEntry ∧ t.exitCountdown = 0 ∧
      t.sr = s.sr ∧ t.nvm = s.nvm ∧ t.pb = s.pb ∧ t.events = es := by
  refine (claims_of_step (n := 0) h.fault (h.step_timeout he hc)).2 (claims_zero.2 ?_)
  simp [handoff, emit, h.fault, sup_eq_terminal]

/-- The block `k` ticks after `s`, still waiting, with `es` to come. -/
structure StillWaiting (s : State) (k : Nat) (es : List Event) (t : State) : Prop where
  noMaster : t.NoMaster
  countdown : t.exitCountdown.toNat = s.exitCountdown.toNat - k
  cfg : t.cfg = s.cfg
  sr : t.sr = s.sr
  nvm : t.nvm = s.nvm
  pb : t.pb = s.pb
  events : t.events = es

/-- R202: fewer ticks than the countdown holds leave the block waiting. -/
theorem State.NoMaster.claims_stillWaiting (h : s.NoMaster) {k : Nat} (hk : k < s.exitCountdown.toNat)
    (he : s.events = List.replicate k .tick ++ es) : s.Claims k (StillWaiting s k es) := by
  induction k generalizing s with
  | zero => exact claims_zero.2 ⟨h.fault, h, rfl, rfl, rfl, rfl, rfl, he⟩
  | succ k ih =>
    rw [List.replicate_succ, List.cons_append] at he
    have hc : s.exitCountdown ≠ 1 := by rintro h1; simp [h1] at hk
    have hcount : (s.exitCountdown - 1).toNat = s.exitCountdown.toNat - 1 := by bv_omega
    rw [claims_of_step h.fault (h.step_counts he hc)]
    have hnext := ih (s := ((s.setEvents (List.replicate k .tick ++ es)).setIndicator (!s.indicator)).setExitCountdown
      (s.exitCountdown - 1)) { h with } (by simp only [State.setExitCountdown_exitCountdown]; omega) rfl
    refine hnext.mono fun t ht => { ht with countdown := ht.countdown.trans ?_ }
    simp only [State.setExitCountdown_exitCountdown]
    omega

/-! ### A mismatch and the tick after it -/

/-- R118 in Idle: the chunk goes in, and the block stays Idle with the erase requested. -/
theorem step_mismatch (hi : s.Inv) (hf : s.fault = none) (hs : s.sup = .idle) {d : List Byte} {k : Byte}
    (hw : (Instr.write d k).wf s.cfg = true) (hfit : s.pageIndex + s.cfg.chunkN ≤ s.cfg.pageSize) (hk : sum8 d ≠ k)
    (he : s.events = .receive (encode s.cfg (.write d k)) :: es) : ∃ u, step s = .next u ∧ u.Inv ∧ u.cfg = s.cfg ∧
      u.nvm = s.nvm ∧ u.fault = none ∧ u.sup = .idle ∧ u.events = es ∧ u.sr.deleteFlashRequested = true ∧
      u.sr.applicationReady = false := by
  have hstep := (step_receive_encode hi.cfgValid hw he hf (sup_eq_idle.1 hs).1).trans
    (exec_write_fits (s := s.setEvents es) hfit d k)
  rw [if_neg hk] at hstep
  exact ⟨_, hstep, step_keepsInv hi hstep, rfl, rfl, hf, hs, rfl, rfl, rfl⟩

/-- R206, R207: an Idle tick with the erase requested, and no exit with a valid application. -/
theorem step_tick_erases (hi : s.Inv) (hr : s.nvm.neverReady = false) (he : s.events = .tick :: es)
    (hf : s.fault = none) (hs : s.sup = .idle) (hd : s.sr.deleteFlashRequested = true)
    (hx : s.sr.exitRequested = false ∨ s.sr.applicationReady = false) : ∃ t, step s = .next t ∧ t.cfg = s.cfg ∧
      t.fault = none ∧ t.sup = .terminal ∧ EraseEndState s.cfg s.nvm.flash t.nvm.flash := by
  obtain ⟨t, ht, hcfg, hft, hsup, _, hend⟩ := eraseAndHandoff_result (hi.setEvents es) hr
  rw [step_tick_idle hi.cfgValid he hf hs, tickIdle_delete_of_not_exit_ready (s := s.setEvents es) hd hx]
  exact ⟨t, ht, hcfg, hft.trans hf, hsup, hend⟩

end Sys2Proof.Machine

section

open Sys2Proof Sys2Proof.Machine

/-- Settles O43: the block waits for all ticks but one, and the last one hands off. -/
theorem timeoutHandsOff : Obligations.TimeoutHandsOff := by
  intro s es hv hf ht h1 h2 hc he
  have hno : s.NoMaster := ⟨hv, hf, ht, h1, h2⟩
  have hwait : ∀ k, k < s.exitCountdown.toNat →
      s.Claims k (StillWaiting s k (List.replicate (s.exitCountdown.toNat - k) .tick ++ es)) := by
    intro k hk
    refine hno.claims_stillWaiting hk ?_
    rw [he, ← List.append_assoc, List.replicate_append_replicate, Nat.add_sub_cancel' hk.le]
  refine ⟨?_, fun k hk => (hwait k hk).mono fun t hw => ⟨hw.noMaster.sup, hw.countdown⟩⟩
  obtain ⟨n, hn⟩ : ∃ n, s.exitCountdown.toNat = n + 1 :=
    Nat.exists_eq_succ_of_ne_zero fun h0 => hc (BitVec.eq_of_toNat_eq h0)
  have hlast := hwait n (by omega)
  rw [hn, Nat.add_sub_cancel_left] at hlast
  rw [hn]
  refine claims_append (hlast.mono fun t hw => ?_)
  have hone : t.exitCountdown = 1 := BitVec.eq_of_toNat_eq (hw.countdown.trans (by simp [hn]))
  have hlast' := hw.noMaster.claims_timeout hw.events hone
  rw [hw.cfg, hw.sr, hw.nvm, hw.pb] at hlast'
  exact hlast'

/-- Settles O59: the chunk fits a buffer of whole chunks that is not full, so it leaves the request flag set, and the tick
erases. -/
theorem checksumMismatchThenTickErases : Obligations.ChecksumMismatchThenTickErases := by
  intro s d k es hi hr hf hs hd hnfull hk he
  have hw : (Instr.write d k).wf s.cfg = true := by simp [Instr.wf, hd]
  have hfit : s.pageIndex + s.cfg.chunkN ≤ s.cfg.pageSize :=
    Nat.not_lt.1 fun ho => hnfull (hi.full_of_overflow ho)
  obtain ⟨u, hu, hui, hucfg, hun, huf, hus, hue, hdel, hready⟩ := step_mismatch hi hf hs hw hfit hk he
  obtain ⟨t, ht, hcfg, htf, hsup, hend⟩ := step_tick_erases hui (hun ▸ hr) hue huf hus hdel (.inr hready)
  rw [claims_of_step hf hu, claims_of_step huf ht, claims_zero]
  rw [hucfg] at hcfg hend
  rw [hun] at hend
  refine ⟨htf, hsup, hend, fun hff => ?_⟩
  rw [← hcfg] at hend hff ⊢
  exact (jumpChain_of_eraseEndState (hcfg ▸ hi.cfgValid) hend hff).2

end

/-! O60: an UPLOAD of an application page (30_encoding.md R93). The chunk loop, by induction on the chunks, puts the image
into the buffer behind what stands there; the tick after it is the commit of a full page. -/

namespace Sys2Proof.Machine

variable {s t : State} {es : List Event}

/-- The buffer up to the end of a stored chunk. -/
theorem storeAt_take {pb d : List Byte} {i : Nat} (h : i + d.length ≤ pb.length) :
    (storeAt pb i d).take (i + d.length) = pb.take i ++ d := by
  apply List.ext_getElem?
  intro x
  have hlen : (pb.take i).length = i := by rw [List.length_take]; omega
  rw [List.getElem?_take, storeAt_getElem? pb i d h, List.getElem?_append, hlen, List.getElem?_take]
  by_cases hlt : x < i
  · rw [if_pos (by omega), if_neg (by omega), if_pos hlt, if_pos hlt]
  · rw [if_neg hlt]
    by_cases hin : x < i + d.length
    · rw [if_pos hin, if_pos (by omega)]
    · rw [if_neg hin, List.getElem?_eq_none (by omega)]

/-! ### The lines of a script -/

theorem Script.chunks_length (c : Config) (n : Nat) (img : List Byte) : (Script.chunks c n img).length = 2 * n := by
  induction n generalizing img with
  | zero => rfl
  | succ n ih => simp only [Script.chunks, List.length_cons, ih]; omega

/-- A block in a valid configuration that takes frames, with a buffer of one page. -/
structure State.Receiving (s : State) : Prop where
  valid : s.cfg.Valid
  fault : s.fault = none
  terminal : s.terminal = false
  pbLength : s.pb.length = s.cfg.pageSize

theorem State.Inv.receiving (hi : s.Inv) (hf : s.fault = none) (ht : s.terminal = false) : s.Receiving :=
  ⟨hi.cfgValid, hf, ht, hi.pbLength⟩

/-- R117: a WRITE line, whose checksum is right, of a chunk that fits. -/
theorem State.Receiving.step_script_write (h : s.Receiving) {d : List Byte} (hd : d.length = s.cfg.chunkN)
    (hfit : s.pageIndex + s.cfg.chunkN ≤ s.cfg.pageSize) (he : s.events = Script.write s.cfg d :: es) :
    step s = .next { s with
      pb := storeAt s.pb s.pageIndex d
      pageIndex := s.pageIndex + d.length
      reply := [~~~s.cfg.opcWrite, sum8 d]
      events := es } := by
  have hw : (Instr.write d (sum8 d)).wf s.cfg = true := by simp [Instr.wf, hd]
  rw [step_receive_encode h.valid hw he h.fault h.terminal, exec_write_fits (s := s.setEvents es) hfit, if_pos rfl]
  rfl

/-- After the lines of some chunks: the bytes `img` stand in the buffer from the fill index of `s` on, `es` is to come, and
nothing but the buffer, the index, the reply and the outputs has changed. -/
structure ChunksStored (s : State) (img : List Byte) (es : List Event) (t : State) : Prop where
  frame : t = { s with
    pb := t.pb
    pageIndex := s.pageIndex + img.length
    reply := t.reply
    events := es
    outputs := t.outputs }
  pbLength : t.pb.length = s.pb.length
  stored : t.pb.take (s.pageIndex + img.length) = s.pb.take s.pageIndex ++ img

theorem chunksStored_nil (he : s.events = es) : ChunksStored s [] es s :=
  ⟨by rw [← he]; rfl, rfl, by simp⟩

/-- A chunk and then more of them. -/
theorem ChunksStored.trans {u : State} {d img : List Byte} {es' : List Event} (h : ChunksStored s d es' u)
    (k : ChunksStored u img es t) : ChunksStored s (d ++ img) es t := by
  obtain ⟨hframe, hlen, hstored⟩ := h
  obtain ⟨kframe, klen, kstored⟩ := k
  have hidx : u.pageIndex = s.pageIndex + d.length := by rw [hframe]
  rw [hidx, hstored] at kstored
  rw [hidx] at kframe
  refine ⟨?_, klen.trans hlen, ?_⟩
  · rw [kframe, hframe, List.length_append, Nat.add_assoc]
  · rw [List.length_append, ← Nat.add_assoc, kstored, List.append_assoc]

/-- The claim about one Request that the block takes. -/
theorem State.Receiving.claims_request {P : State → Prop} (h : s.Receiving) (he : s.events = .request :: es)
    (hP : P ((emit (s.reply.map .transmit) (s.setEvents es)).setReply [])) : s.Claims 1 P :=
  (claims_of_step (n := 0) h.fault (step_request h.valid he h.fault h.terminal)).2 ⟨h.fault, hP⟩

/-- A WRITE line and the Request after it. -/
theorem State.Receiving.claims_write_request (h : s.Receiving) {d : List Byte} (hd : d.length = s.cfg.chunkN)
    (hfit : s.pageIndex + s.cfg.chunkN ≤ s.cfg.pageSize) (he : s.events = Script.write s.cfg d :: .request :: es) :
    s.Claims 2 (ChunksStored s d es) := by
  have hwrite := h.step_script_write hd hfit he
  have hroom : s.pageIndex + d.length ≤ s.pb.length := by rw [hd, h.pbLength]; exact hfit
  rw [claims_of_step (n := 1) h.fault hwrite]
  exact State.Receiving.claims_request { h with pbLength := (storeAt_length ..).trans h.pbLength } rfl
    ⟨rfl, storeAt_length .., storeAt_take hroom⟩

theorem ChunksStored.receiving {img : List Byte} (h : s.Receiving) (k : ChunksStored s img es t) : t.Receiving := by
  have hlen := k.pbLength.trans h.pbLength
  rw [k.frame]
  exact { h with pbLength := hlen }

/-- The lines of `n` chunks that fit store their bytes. -/
theorem State.Receiving.claims_chunks (h : s.Receiving) {n : Nat} {img : List Byte}
    (himg : img.length = n * s.cfg.chunkN) (hfit : s.pageIndex + img.length ≤ s.cfg.pageSize)
    (he : s.events = Script.chunks s.cfg n img ++ es) : s.Claims (2 * n) (ChunksStored s img es) := by
  induction n generalizing s img with
  | zero =>
    obtain rfl : img = [] := List.length_eq_zero_iff.1 (by omega)
    exact claims_zero.2 ⟨h.fault, chunksStored_nil he⟩
  | succ n ih =>
    rw [Nat.succ_mul] at himg
    have htake : (img.take s.cfg.chunkN).length = s.cfg.chunkN := by rw [List.length_take]; omega
    have hdrop : (img.drop s.cfg.chunkN).length = n * s.cfg.chunkN := by rw [List.length_drop]; omega
    rw [show 2 * (n + 1) = 2 + 2 * n by omega]
    refine claims_append ((h.claims_write_request htake (by omega) he).mono fun u hu => ?_)
    have hcfg : u.cfg = s.cfg := by rw [hu.frame]
    have hidx : u.pageIndex = s.pageIndex + s.cfg.chunkN := by rw [hu.frame, htake]
    have hev : u.events = Script.chunks s.cfg n (img.drop s.cfg.chunkN) ++ es := by rw [hu.frame]; rfl
    refine (ih (hu.receiving h) (by rw [hcfg, hdrop]) (by rw [hcfg, hidx]; omega) (by rw [hcfg, hev])).mono
      fun t ht => ?_
    have htrans := hu.trans ht
    rwa [List.take_append_drop] at htrans

/-- A SETADDR line of an aligned address, and the Request after it. -/
theorem State.Receiving.claims_setaddr_request (h : s.Receiving) {a : Word} (ha : a.toNat % s.cfg.pageSize = 0)
    (he : s.events = Script.setaddr s.cfg a :: .request :: es) : s.Claims 2 fun t => t = { s with
      flashPageAddress := a
      reply := []
      events := es
      outputs := t.outputs } := by
  have hset := (step_receive_encode (i := .setaddr (hi8 a) (lo8 a)) h.valid rfl he h.fault h.terminal).trans
    (exec_setaddr _ _ _)
  rw [joinWord_lo_hi, pageBase_of_aligned (c := (s.setEvents (.request :: es)).cfg) h.valid ha] at hset
  rw [claims_of_step (n := 1) h.fault hset]
  exact State.Receiving.claims_request { h with } rfl rfl

/-! ### The tick of a full page -/

/-- An Idle block, not faulted, that no flag keeps from committing its full page (R208). -/
structure State.CommitsNext (s : State) : Prop where
  fault : s.fault = none
  sup : s.sup = .idle
  exitRequested : s.sr.exitRequested = false
  deleteFlashRequested : s.sr.deleteFlashRequested = false
  full : s.pageIndex = s.cfg.pageSize

/-- R154, R208: the tick commits an application page other than page 0, and goes to the next page. -/
theorem State.CommitsNext.claims_tick (h : s.CommitsNext) (hi : s.Inv) (hr : s.nvm.neverReady = false)
    (he : s.events = .tick :: es) (h0 : s.flashPageAddress ≠ 0) (hlt : s.flashPageAddress.toNat < s.cfg.tplPage) :
    s.Claims 1 fun t => PageHolds s.cfg s.flashPageAddress.toNat s.pb s.nvm.flash t.nvm.flash ∧
      t.flashPageAddress.toNat = s.flashPageAddress.toNat + s.cfg.pageSize ∧ t.pageIndex = 0 ∧ t.events = es ∧
      t.sr = s.sr ∧ t.sup = .idle := by
  have hv := hi.cfgValid
  have hbase : pageBase s.cfg s.flashPageAddress = s.flashPageAddress := pageBase_of_aligned hv hi.addressAligned
  obtain ⟨t, u, hu, hstep, ht, haddr, hsr, hsup, _⟩ := fullPageCommits s es hi hr he h.fault h.sup h.exitRequested
    h.deleteFlashRequested h.full
  obtain ⟨u', hu', _, hpage⟩ := commitOtherPage (s.setEvents es) s.flashPageAddress (hi.setEvents es) hr
    (hbase.symm ▸ h0) (hbase.symm ▸ hlt)
  cases hu.symm.trans hu'
  have hchanges := commitPage_changes hu
  have hfault : t.fault = none := by rw [ht, hchanges]; exact h.fault
  have hevents : t.events = es := by rw [ht, hchanges]
  have hidx : t.pageIndex = 0 := by rw [ht]
  have hflash : t.nvm.flash = u.nvm.flash := by rw [ht]
  refine (claims_of_step (n := 0) h.fault hstep).2 (claims_zero.2 ⟨hfault, ?_, ?_, hidx, hevents, hsr, hsup⟩)
  · rw [hflash, ← hbase]
    exact hpage
  · have := hv.bootStart_le
    have := hv.tplPage_add
    omega

end Sys2Proof.Machine

section

open Sys2Proof Sys2Proof.Machine

/-- Settles O60: the address, the chunk loop, and the commit of the full page. -/
theorem uploadProgramsThePage : Obligations.UploadProgramsThePage := by
  intro s a img hi hr hf hs hx hd hp ha h0 hlt himg he
  have hrec := hi.receiving hf (sup_eq_idle.1 hs).1
  have hchunks : img.length = s.cfg.pageSize / s.cfg.chunkN * s.cfg.chunkN := by
    rw [himg, Nat.div_mul_cancel (Nat.dvd_of_mod_eq_zero hi.cfgValid.pageSize_mod_chunkN)]
  have hlen : (Script.upload s.cfg a img).length = 2 + (2 * (s.cfg.pageSize / s.cfg.chunkN) + 1) := by
    simp only [Script.upload, List.length_cons, List.length_append, Script.chunks_length, List.length_nil]
    omega
  rw [hlen]
  refine claims_append (((hrec.claims_setaddr_request ha he).withInv hi).mono fun u ⟨hui, hu⟩ => ?_)
  have hcfg : u.cfg = s.cfg := by rw [hu]
  have hidx : u.pageIndex = 0 := by rw [hu]; exact hp
  have hev : u.events = Script.chunks u.cfg (s.cfg.pageSize / s.cfg.chunkN) img ++ [.tick] := by rw [hu]
  have hurec : u.Receiving := hui.receiving (by rw [hu]; exact hf) (by rw [hu]; exact hrec.terminal)
  have hloop := hurec.claims_chunks (hcfg ▸ hchunks) (by rw [hcfg, hidx, himg]; omega) hev
  refine claims_append ((hloop.withInv hui).mono fun t ⟨hti, ht⟩ => ?_)
  have hframe := ht.frame
  rw [hidx, Nat.zero_add, himg, hu] at hframe
  have hpb : t.pb = img := by
    have hstored := ht.stored
    rwa [hidx, Nat.zero_add, List.take_zero, List.nil_append, himg, ← hcfg, ← hui.pbLength, ← ht.pbLength,
      List.take_length] at hstored
  have htcfg : t.cfg = s.cfg := by rw [hframe]
  have haddr : t.flashPageAddress = a := by rw [hframe]
  have hflash : t.nvm = s.nvm := by rw [hframe]
  have hsr : t.sr = s.sr := by rw [hframe]
  have hnext : t.CommitsNext := by
    rw [hframe]
    exact ⟨hf, hs, hx, hd, rfl⟩
  have htick := hnext.claims_tick hti (hflash ▸ hr) (by rw [hframe]) (haddr ▸ h0) (haddr ▸ htcfg ▸ hlt)
  rwa [htcfg, haddr, hpb, hflash, hsr] at htick

end
